-- ==== Sys2Proof/Word.lean ====
section
/-! DEFINITION. The two value widths of the core (00_scope.md R9) and the names its operand fields
choose among (30_encoding.md R64 to R67). -/

namespace Sys2Proof

/-- `u8` (R9): a byte of memory, an 8-bit register. -/
abbrev Byte := BitVec 8

/-- `u16` (R9): an address, a register pair, PC, SP. -/
abbrev Word := BitVec 16

/-- The seven 8-bit registers that an operand slot can name (R64). F has no slot (10_state.md R21). -/
inductive R8 where
  | b | c | d | e | h | l | a
  deriving DecidableEq, Repr

/-- The two kinds of 8-bit operand location (R64): a named register, or the memory cell at HL. -/
inductive Loc where
  | reg (r : R8)
  | hlInd
  deriving DecidableEq, Repr

/-- The 16-bit selector with SP (R65). -/
inductive R16 where
  | bc | de | hl | sp
  deriving DecidableEq, Repr

/-- The register pairs (10_state.md R23), which are also the selector of `PUSH` and `POP` (R66). -/
inductive Pair where
  | bc | de | hl | af
  deriving DecidableEq, Repr

/-- The conditions of `JR cc,e` (R67). -/
inductive Cond where
  | nz | z | nc | c
  deriving DecidableEq, Repr

end Sys2Proof
end

