-- ==== Sys2Proof/Config.lean ====
section
/-! DEFINITION. The four named parameters of 00_scope.md R7. Every shared operation takes them as its
argument `Params`; the defaults the spec uses in every rule are `defaults` in Machine/Ops.lean, of which
the two simple ones stand here and `CYC` in Machine/Cycles.lean. -/

namespace Sys2Proof

/-- The values of `CCF_MODE` (48_scf_ccf.md R131). -/
inductive CcfMode where
  | toggle | clear
  deriving DecidableEq, Repr

/-- The values of `POP_AF_F_MASK` (49_push_pop.md R137): `keepHigh` is 0xF0, `keepAll` is 0xFF. -/
inductive PopAfMask where
  | keepHigh | keepAll
  deriving DecidableEq, Repr

/-- The mask as the byte R137 ands with. -/
def PopAfMask.value : PopAfMask → Byte
  | .keepHigh => 0xF0#8
  | .keepAll => 0xFF#8

/-- The keys of the cost table `CYC` (70_reset_and_hazards.md R170), one per row key of that table. -/
inductive CycKey where
  | unassigned | nop | ldR16Nn | ldRN | ldHlN | incR | decR | incHlInd | decHlInd | incR16
  | decR16 | addHlR16 | addAR | addAHlInd | rlcA | rrcA | rlA | ldHliA | ldAHli | ldHldA
  | ldAHld | ldRrIndA | ldARrInd | jr | jrCcTaken | jrCcNotTaken | ldRR | ldRHlInd | ldHlIndR
  | scf | ccf | push | pop
  deriving DecidableEq, Repr

/-- `Port` (20_memory.md R47): the memory port's behaviour over a port state of any type, under no law. A
read answers a byte and may change the port's state; no operation fails. -/
structure Port (σ : Type) where
  read : σ → Word → Byte × σ
  write : σ → Word → Byte → σ

/-- The four parameters of R7, for a port whose state is `σ`. No other parameter exists. -/
structure Params (σ : Type) where
  /-- `CCF_MODE`. -/
  ccfMode : CcfMode
  /-- `POP_AF_F_MASK`. -/
  popAfMask : PopAfMask
  /-- `CYC`; `CycOk` in Machine/Cycles.lean says what R171 asks of it. -/
  cyc : CycKey → Nat
  /-- `Port`. -/
  port : Port σ

/-- The default `CCF_MODE = toggle` (R7, R131), decided by the spec (D7). UNVERIFIED, log entry 6,
unsafe against hardware that clears. -/
def Config.ccfMode : CcfMode := .toggle

/-- The default `POP_AF_F_MASK = 0xF0` (R7, R137), decided by the spec (D8). UNVERIFIED, log entry 7,
unsafe against hardware that loads all eight bits. -/
def Config.popAfMask : PopAfMask := .keepHigh

end Sys2Proof
end

