-- ==== Sys2Proof/Syntax.lean ====
section
/-! DEFINITION. The instructions: one constructor per mnemonic of spec/opcode_table.json, 138 assigned
opcode bytes (30_encoding.md R70, R71, R75) and one constructor for the 118 unassigned bytes, which the
table gives one mnemonic. Operands are the bytes that follow the opcode: `n`, `e` a byte (R68), `nn` a
word (R69). -/

namespace Sys2Proof

/-- An instruction as decoded. -/
inductive Instr where
  -- NOP (40_nop_unassigned.md R80)
  /-- 00 `NOP` (R80). -/
  | nop
  -- Immediate loads (41_immediate_loads.md R85 to R87)
  /-- 01 `LD BC,nn` (R85). -/
  | ldBcNn (nn : Word)
  /-- 11 `LD DE,nn` (R85). -/
  | ldDeNn (nn : Word)
  /-- 21 `LD HL,nn` (R85). -/
  | ldHlNn (nn : Word)
  /-- 31 `LD SP,nn` (R85). -/
  | ldSpNn (nn : Word)
  /-- 06 `LD B,n` (R86). -/
  | ldBN (n : Byte)
  /-- 0E `LD C,n` (R86). -/
  | ldCN (n : Byte)
  /-- 16 `LD D,n` (R86). -/
  | ldDN (n : Byte)
  /-- 1E `LD E,n` (R86). -/
  | ldEN (n : Byte)
  /-- 26 `LD H,n` (R86). -/
  | ldHN (n : Byte)
  /-- 2E `LD L,n` (R86). -/
  | ldLN (n : Byte)
  /-- 3E `LD A,n` (R86). -/
  | ldAN (n : Byte)
  /-- 36 `LD (HL),n` (R87). -/
  | ldIndHlN (n : Byte)
  -- Increment and decrement (42_inc_dec.md R90 to R95)
  /-- 04 `INC B` (R90). -/
  | incB
  /-- 0C `INC C` (R90). -/
  | incC
  /-- 14 `INC D` (R90). -/
  | incD
  /-- 1C `INC E` (R90). -/
  | incE
  /-- 24 `INC H` (R90). -/
  | incH
  /-- 2C `INC L` (R90). -/
  | incL
  /-- 3C `INC A` (R90). -/
  | incA
  /-- 34 `INC (HL)` (R91). -/
  | incIndHl
  /-- 05 `DEC B` (R92). -/
  | decB
  /-- 0D `DEC C` (R92). -/
  | decC
  /-- 15 `DEC D` (R92). -/
  | decD
  /-- 1D `DEC E` (R92). -/
  | decE
  /-- 25 `DEC H` (R92). -/
  | decH
  /-- 2D `DEC L` (R92). -/
  | decL
  /-- 3D `DEC A` (R92). -/
  | decA
  /-- 35 `DEC (HL)` (R93). -/
  | decIndHl
  /-- 03 `INC BC` (R94). -/
  | incBc
  /-- 13 `INC DE` (R94). -/
  | incDe
  /-- 23 `INC HL` (R94). -/
  | incHl
  /-- 33 `INC SP` (R94). -/
  | incSp
  /-- 0B `DEC BC` (R95). -/
  | decBc
  /-- 1B `DEC DE` (R95). -/
  | decDe
  /-- 2B `DEC HL` (R95). -/
  | decHl
  /-- 3B `DEC SP` (R95). -/
  | decSp
  -- Addition (43_add.md R100 to R102)
  /-- 09 `ADD HL,BC` (R100). -/
  | addHlBc
  /-- 19 `ADD HL,DE` (R100). -/
  | addHlDe
  /-- 29 `ADD HL,HL` (R100). -/
  | addHlHl
  /-- 39 `ADD HL,SP` (R100). -/
  | addHlSp
  /-- 80 `ADD A,B` (R101). -/
  | addAB
  /-- 81 `ADD A,C` (R101). -/
  | addAC
  /-- 82 `ADD A,D` (R101). -/
  | addAD
  /-- 83 `ADD A,E` (R101). -/
  | addAE
  /-- 84 `ADD A,H` (R101). -/
  | addAH
  /-- 85 `ADD A,L` (R101). -/
  | addAL
  /-- 87 `ADD A,A` (R101). -/
  | addAA
  /-- 86 `ADD A,(HL)` (R102). -/
  | addAIndHl
  -- Rotates of A (44_rotate_a.md R105 to R107)
  /-- 07 `RLC A` (R105). -/
  | rlcA
  /-- 0F `RRC A` (R106). -/
  | rrcA
  /-- 17 `RL A` (R107). -/
  | rlA
  -- Indirect loads and stores of A (45_indirect_a.md R110 to R115)
  /-- 22 `LD (HL+),A` (R110). -/
  | ldHliA
  /-- 2A `LD A,(HL+)` (R111). -/
  | ldAHli
  /-- 32 `LD (HL-),A` (R112). -/
  | ldHldA
  /-- 3A `LD A,(HL-)` (R113). -/
  | ldAHld
  /-- 02 `LD (BC),A` (R114). -/
  | ldIndBcA
  /-- 12 `LD (DE),A` (R114). -/
  | ldIndDeA
  /-- 0A `LD A,(BC)` (R115). -/
  | ldAIndBc
  /-- 1A `LD A,(DE)` (R115). -/
  | ldAIndDe
  -- Relative jumps (46_jr.md R120, R121)
  /-- 18 `JR e` (R120). -/
  | jr (e : Byte)
  /-- 20 `JR NZ,e` (R121). -/
  | jrNz (e : Byte)
  /-- 28 `JR Z,e` (R121). -/
  | jrZ (e : Byte)
  /-- 30 `JR NC,e` (R121). -/
  | jrNc (e : Byte)
  /-- 38 `JR C,e` (R121). -/
  | jrC (e : Byte)
  -- The LD r,r' block (47_ld_r_r.md R125 to R127)
  /-- 40 `LD B,B` (R125). -/
  | ldBB
  /-- 41 `LD B,C` (R125). -/
  | ldBC
  /-- 42 `LD B,D` (R125). -/
  | ldBD
  /-- 43 `LD B,E` (R125). -/
  | ldBE
  /-- 44 `LD B,H` (R125). -/
  | ldBH
  /-- 45 `LD B,L` (R125). -/
  | ldBL
  /-- 47 `LD B,A` (R125). -/
  | ldBA
  /-- 48 `LD C,B` (R125). -/
  | ldCB
  /-- 49 `LD C,C` (R125). -/
  | ldCC
  /-- 4A `LD C,D` (R125). -/
  | ldCD
  /-- 4B `LD C,E` (R125). -/
  | ldCE
  /-- 4C `LD C,H` (R125). -/
  | ldCH
  /-- 4D `LD C,L` (R125). -/
  | ldCL
  /-- 4F `LD C,A` (R125). -/
  | ldCA
  /-- 50 `LD D,B` (R125). -/
  | ldDB
  /-- 51 `LD D,C` (R125). -/
  | ldDC
  /-- 52 `LD D,D` (R125). -/
  | ldDD
  /-- 53 `LD D,E` (R125). -/
  | ldDE
  /-- 54 `LD D,H` (R125). -/
  | ldDH
  /-- 55 `LD D,L` (R125). -/
  | ldDL
  /-- 57 `LD D,A` (R125). -/
  | ldDA
  /-- 58 `LD E,B` (R125). -/
  | ldEB
  /-- 59 `LD E,C` (R125). -/
  | ldEC
  /-- 5A `LD E,D` (R125). -/
  | ldED
  /-- 5B `LD E,E` (R125). -/
  | ldEE
  /-- 5C `LD E,H` (R125). -/
  | ldEH
  /-- 5D `LD E,L` (R125). -/
  | ldEL
  /-- 5F `LD E,A` (R125). -/
  | ldEA
  /-- 60 `LD H,B` (R125). -/
  | ldHB
  /-- 61 `LD H,C` (R125). -/
  | ldHC
  /-- 62 `LD H,D` (R125). -/
  | ldHD
  /-- 63 `LD H,E` (R125). -/
  | ldHE
  /-- 64 `LD H,H` (R125). -/
  | ldHH
  /-- 65 `LD H,L` (R125). -/
  | ldHL
  /-- 67 `LD H,A` (R125). -/
  | ldHA
  /-- 68 `LD L,B` (R125). -/
  | ldLB
  /-- 69 `LD L,C` (R125). -/
  | ldLC
  /-- 6A `LD L,D` (R125). -/
  | ldLD
  /-- 6B `LD L,E` (R125). -/
  | ldLE
  /-- 6C `LD L,H` (R125). -/
  | ldLH
  /-- 6D `LD L,L` (R125). -/
  | ldLL
  /-- 6F `LD L,A` (R125). -/
  | ldLA
  /-- 78 `LD A,B` (R125). -/
  | ldAB
  /-- 79 `LD A,C` (R125). -/
  | ldAC
  /-- 7A `LD A,D` (R125). -/
  | ldAD
  /-- 7B `LD A,E` (R125). -/
  | ldAE
  /-- 7C `LD A,H` (R125). -/
  | ldAH
  /-- 7D `LD A,L` (R125). -/
  | ldAL
  /-- 7F `LD A,A` (R125). -/
  | ldAA
  /-- 46 `LD B,(HL)` (R126). -/
  | ldBIndHl
  /-- 4E `LD C,(HL)` (R126). -/
  | ldCIndHl
  /-- 56 `LD D,(HL)` (R126). -/
  | ldDIndHl
  /-- 5E `LD E,(HL)` (R126). -/
  | ldEIndHl
  /-- 66 `LD H,(HL)` (R126). -/
  | ldHIndHl
  /-- 6E `LD L,(HL)` (R126). -/
  | ldLIndHl
  /-- 7E `LD A,(HL)` (R126). -/
  | ldAIndHl
  /-- 70 `LD (HL),B` (R127). -/
  | ldIndHlB
  /-- 71 `LD (HL),C` (R127). -/
  | ldIndHlC
  /-- 72 `LD (HL),D` (R127). -/
  | ldIndHlD
  /-- 73 `LD (HL),E` (R127). -/
  | ldIndHlE
  /-- 74 `LD (HL),H` (R127). -/
  | ldIndHlH
  /-- 75 `LD (HL),L` (R127). -/
  | ldIndHlL
  /-- 77 `LD (HL),A` (R127). -/
  | ldIndHlA
  -- Flag-only instructions (48_scf_ccf.md R130, R131)
  /-- 37 `SCF` (R130). -/
  | scf
  /-- 3F `CCF` (R131). -/
  | ccf
  -- Stack (49_push_pop.md R135 to R137)
  /-- C5 `PUSH BC` (R135). -/
  | pushBc
  /-- D5 `PUSH DE` (R135). -/
  | pushDe
  /-- E5 `PUSH HL` (R135). -/
  | pushHl
  /-- F5 `PUSH AF` (R135). -/
  | pushAf
  /-- C1 `POP BC` (R136). -/
  | popBc
  /-- D1 `POP DE` (R136). -/
  | popDe
  /-- E1 `POP HL` (R136). -/
  | popHl
  /-- F1 `POP AF` (R137). -/
  | popAf
  -- Every other byte (40_nop_unassigned.md R81)
  /-- An opcode byte with no assigned behaviour (R75, R81). -/
  | unassigned (op : Byte)
  deriving DecidableEq, Repr

end Sys2Proof
end

