-- ==== Sys2Proof/WellFormed.lean ====
section
/-! DEFINITION. The two sets of opcode bytes (30_encoding.md R75) and the one check an instruction has:
an `unassigned` byte is one of the 118. Every `n`, `e` and `nn` is legal (R76). -/

namespace Sys2Proof

/-- `Assigned(op)` (R75), the first set as the rule lists it. -/
def assigned (op : Byte) : Bool :=
  let v := op.toNat
  v ≤ 0x07 || (0x09 ≤ v && v ≤ 0x0F) || (0x11 ≤ v && v ≤ 0x1E) || (0x20 ≤ v && v ≤ 0x26) ||
    (0x28 ≤ v && v ≤ 0x2E) || (0x30 ≤ v && v ≤ 0x3F) || (0x40 ≤ v && v ≤ 0x75) ||
    (0x77 ≤ v && v ≤ 0x87) || [0xC1, 0xC5, 0xD1, 0xD5, 0xE1, 0xE5, 0xF1, 0xF5].contains v

/-- Whether an instruction is one the encoding has (R61, R75, R76). -/
def Instr.wellFormed : Instr → Bool
  | .nop => true
  | .ldBcNn _ | .ldDeNn _ | .ldHlNn _ | .ldSpNn _ | .ldBN _ | .ldCN _ | .ldDN _ | .ldEN _
  | .ldHN _ | .ldLN _ | .ldAN _ | .ldIndHlN _ => true
  | .incB | .incC | .incD | .incE | .incH | .incL | .incA | .incIndHl | .decB | .decC | .decD
  | .decE | .decH | .decL | .decA | .decIndHl | .incBc | .incDe | .incHl | .incSp | .decBc
  | .decDe | .decHl | .decSp => true
  | .addHlBc | .addHlDe | .addHlHl | .addHlSp | .addAB | .addAC | .addAD | .addAE | .addAH
  | .addAL | .addAA | .addAIndHl => true
  | .rlcA | .rrcA | .rlA => true
  | .ldHliA | .ldAHli | .ldHldA | .ldAHld | .ldIndBcA | .ldIndDeA | .ldAIndBc | .ldAIndDe => true
  | .jr _ | .jrNz _ | .jrZ _ | .jrNc _ | .jrC _ => true
  | .ldBB | .ldBC | .ldBD | .ldBE | .ldBH | .ldBL | .ldBA | .ldCB | .ldCC | .ldCD | .ldCE
  | .ldCH | .ldCL | .ldCA | .ldDB | .ldDC | .ldDD | .ldDE | .ldDH | .ldDL | .ldDA | .ldEB
  | .ldEC | .ldED | .ldEE | .ldEH | .ldEL | .ldEA | .ldHB | .ldHC | .ldHD | .ldHE | .ldHH
  | .ldHL | .ldHA | .ldLB | .ldLC | .ldLD | .ldLE | .ldLH | .ldLL | .ldLA | .ldAB | .ldAC
  | .ldAD | .ldAE | .ldAH | .ldAL | .ldAA | .ldBIndHl | .ldCIndHl | .ldDIndHl | .ldEIndHl
  | .ldHIndHl | .ldLIndHl | .ldAIndHl | .ldIndHlB | .ldIndHlC | .ldIndHlD | .ldIndHlE
  | .ldIndHlH | .ldIndHlL | .ldIndHlA => true
  | .scf | .ccf => true
  | .pushBc | .pushDe | .pushHl | .pushAf | .popBc | .popDe | .popHl | .popAf => true
  | .unassigned op => !assigned op

end Sys2Proof
end

