-- ==== Sys2Proof/Decode.lean ====
section
/-! DEFINITION. Decoding (30_encoding.md): the fields of the opcode byte, the field decoders, the patterns
of R70, instruction lengths, and the decoder from bytes; after it the encoder, written from the byte
values of R71. A pattern of R70 is a `Form`; `Form.toInstr` names the row of the opcode table. -/

namespace Sys2Proof

/-! ### Byte order (R69, 20_memory.md R44) -/

/-- `(hi, lo)` as a word, the first the more significant (00_scope.md R8). -/
def joinBytes (hi lo : Byte) : Word := hi ++ lo

/-- Bits 15:8. -/
def hiByte (v : Word) : Byte := v.extractLsb' 8 8

/-- Bits 7:0. -/
def loByte (v : Word) : Byte := v.extractLsb' 0 8

/-! ### Fields of the opcode byte (R63) -/

/-- `blk` = op[7:6]. -/
def fieldBlk (op : Byte) : BitVec 2 := op.extractLsb' 6 2

/-- `d` = op[5:3]. -/
def fieldD (op : Byte) : BitVec 3 := op.extractLsb' 3 3

/-- `s` = op[2:0]. -/
def fieldS (op : Byte) : BitVec 3 := op.extractLsb' 0 3

/-- `pp` = op[5:4]. -/
def fieldPP (op : Byte) : BitVec 2 := op.extractLsb' 4 2

/-- `q` = op[3]. -/
def fieldQ (op : Byte) : Bool := op.getLsbD 3

/-- `cc` = op[4:3]. -/
def fieldCC (op : Byte) : BitVec 2 := op.extractLsb' 3 2

/-! ### Field decoders (R64 to R67) -/

/-- `decode_r8`, `decode_ld_dest` (R64). -/
def decodeR8 (slot : BitVec 3) : Loc :=
  match slot.toNat with
  | 0 => .reg .b
  | 1 => .reg .c
  | 2 => .reg .d
  | 3 => .reg .e
  | 4 => .reg .h
  | 5 => .reg .l
  | 6 => .hlInd
  | _ => .reg .a

/-- `decode_r16` (R65). -/
def decodeR16 (pp : BitVec 2) : R16 :=
  match pp.toNat with
  | 0 => .bc
  | 1 => .de
  | 2 => .hl
  | _ => .sp

/-- The selector of `PUSH` and `POP` (R66). -/
def decodePair (pp : BitVec 2) : Pair :=
  match pp.toNat with
  | 0 => .bc
  | 1 => .de
  | 2 => .hl
  | _ => .af

/-- The condition field of `JR cc,e` (R67). -/
def decodeCond (cc : BitVec 2) : Cond :=
  match cc.toNat with
  | 0 => .nz
  | 1 => .z
  | 2 => .nc
  | _ => .c

/-! ### Patterns (R70) -/

/-- The rows of R70, with their fields as operands. `pop` holds both `POP rr` and `POP AF`. -/
inductive Form where
  | nop
  | ldR16Nn (p : R16) (nn : Word)
  | ldIndBcA | ldIndDeA | ldHliA | ldHldA | ldAIndBc | ldAIndDe | ldAHli | ldAHld
  | incR16 (p : R16) | decR16 (p : R16) | addHlR16 (p : R16)
  | incR (r : R8) | incHlInd | decR (r : R8) | decHlInd
  | ldRN (r : R8) (n : Byte) | ldHlN (n : Byte)
  | rlcA | rrcA | rlA
  | jr (e : Byte) | jrCc (cc : Cond) (e : Byte)
  | scf | ccf
  | ldRR (dst src : R8) | ldRHlInd (dst : R8) | ldHlIndR (src : R8)
  | addAR (src : R8) | addAHlInd
  | push (p : Pair) | pop (p : Pair)
  | unassigned (op : Byte)
  deriving DecidableEq, Repr

/-- Block 0 of R70, columns by op[2:0], then by op[5:3] or its halves `pp` and `q`. -/
def decodeBlk0 (op n1 n2 : Byte) : Form :=
  match (fieldS op).toNat with
  | 0 =>
    match (fieldD op).toNat with
    | 0 => .nop
    | 1 | 2 => .unassigned op
    | 3 => .jr n1
    | _ => .jrCc (decodeCond (fieldCC op)) n1
  | 1 =>
    match fieldQ op with
    | false => .ldR16Nn (decodeR16 (fieldPP op)) (joinBytes n2 n1)
    | true => .addHlR16 (decodeR16 (fieldPP op))
  | 2 =>
    match fieldQ op, (fieldPP op).toNat with
    | false, 0 => .ldIndBcA
    | false, 1 => .ldIndDeA
    | false, 2 => .ldHliA
    | false, _ => .ldHldA
    | true, 0 => .ldAIndBc
    | true, 1 => .ldAIndDe
    | true, 2 => .ldAHli
    | true, _ => .ldAHld
  | 3 =>
    match fieldQ op with
    | false => .incR16 (decodeR16 (fieldPP op))
    | true => .decR16 (decodeR16 (fieldPP op))
  | 4 =>
    match decodeR8 (fieldD op) with
    | .reg r => .incR r
    | .hlInd => .incHlInd
  | 5 =>
    match decodeR8 (fieldD op) with
    | .reg r => .decR r
    | .hlInd => .decHlInd
  | 6 =>
    match decodeR8 (fieldD op) with
    | .reg r => .ldRN r n1
    | .hlInd => .ldHlN n1
  | _ =>
    match (fieldD op).toNat with
    | 0 => .rlcA
    | 1 => .rrcA
    | 2 => .rlA
    | 6 => .scf
    | 7 => .ccf
    | _ => .unassigned op

/-- Block 1, the `LD r,r'` block (47_ld_r_r.md R125 to R128). -/
def decodeBlk1 (op : Byte) : Form :=
  match decodeR8 (fieldD op), decodeR8 (fieldS op) with
  | .reg dst, .reg src => .ldRR dst src
  | .reg dst, .hlInd => .ldRHlInd dst
  | .hlInd, .reg src => .ldHlIndR src
  | .hlInd, .hlInd => .unassigned op

/-- Block 2: only its first eight bytes are assigned (R75). -/
def decodeBlk2 (op : Byte) : Form :=
  match (fieldD op).toNat, decodeR8 (fieldS op) with
  | 0, .reg src => .addAR src
  | 0, .hlInd => .addAHlInd
  | _, _ => .unassigned op

/-- Block 3: `PUSH` and `POP`, with op[3] = 0 (R66). -/
def decodeBlk3 (op : Byte) : Form :=
  match fieldQ op, (fieldS op).toNat with
  | false, 1 => .pop (decodePair (fieldPP op))
  | false, 5 => .push (decodePair (fieldPP op))
  | _, _ => .unassigned op

/-- The row of R70 that the opcode byte matches, with the bytes that follow it as `n1`, `n2`; a row that
takes fewer operand bytes does not look at the others. -/
def decodeForm (op n1 n2 : Byte) : Form :=
  match (fieldBlk op).toNat with
  | 0 => decodeBlk0 op n1 n2
  | 1 => decodeBlk1 op
  | 2 => decodeBlk2 op
  | _ => decodeBlk3 op

/-- The row of the opcode table for a form. -/
def Form.toInstr : Form → Instr
  | .nop => .nop
  | .ldR16Nn .bc nn => .ldBcNn nn
  | .ldR16Nn .de nn => .ldDeNn nn
  | .ldR16Nn .hl nn => .ldHlNn nn
  | .ldR16Nn .sp nn => .ldSpNn nn
  | .ldRN .b n => .ldBN n
  | .ldRN .c n => .ldCN n
  | .ldRN .d n => .ldDN n
  | .ldRN .e n => .ldEN n
  | .ldRN .h n => .ldHN n
  | .ldRN .l n => .ldLN n
  | .ldRN .a n => .ldAN n
  | .ldHlN n => .ldIndHlN n
  | .incR .b => .incB
  | .incR .c => .incC
  | .incR .d => .incD
  | .incR .e => .incE
  | .incR .h => .incH
  | .incR .l => .incL
  | .incR .a => .incA
  | .incHlInd => .incIndHl
  | .decR .b => .decB
  | .decR .c => .decC
  | .decR .d => .decD
  | .decR .e => .decE
  | .decR .h => .decH
  | .decR .l => .decL
  | .decR .a => .decA
  | .decHlInd => .decIndHl
  | .incR16 .bc => .incBc
  | .incR16 .de => .incDe
  | .incR16 .hl => .incHl
  | .incR16 .sp => .incSp
  | .decR16 .bc => .decBc
  | .decR16 .de => .decDe
  | .decR16 .hl => .decHl
  | .decR16 .sp => .decSp
  | .addHlR16 .bc => .addHlBc
  | .addHlR16 .de => .addHlDe
  | .addHlR16 .hl => .addHlHl
  | .addHlR16 .sp => .addHlSp
  | .addAR .b => .addAB
  | .addAR .c => .addAC
  | .addAR .d => .addAD
  | .addAR .e => .addAE
  | .addAR .h => .addAH
  | .addAR .l => .addAL
  | .addAR .a => .addAA
  | .addAHlInd => .addAIndHl
  | .rlcA => .rlcA
  | .rrcA => .rrcA
  | .rlA => .rlA
  | .ldHliA => .ldHliA
  | .ldAHli => .ldAHli
  | .ldHldA => .ldHldA
  | .ldAHld => .ldAHld
  | .ldIndBcA => .ldIndBcA
  | .ldIndDeA => .ldIndDeA
  | .ldAIndBc => .ldAIndBc
  | .ldAIndDe => .ldAIndDe
  | .jr e => .jr e
  | .jrCc .nz e => .jrNz e
  | .jrCc .z e => .jrZ e
  | .jrCc .nc e => .jrNc e
  | .jrCc .c e => .jrC e
  | .ldRR .b .b => .ldBB
  | .ldRR .b .c => .ldBC
  | .ldRR .b .d => .ldBD
  | .ldRR .b .e => .ldBE
  | .ldRR .b .h => .ldBH
  | .ldRR .b .l => .ldBL
  | .ldRR .b .a => .ldBA
  | .ldRR .c .b => .ldCB
  | .ldRR .c .c => .ldCC
  | .ldRR .c .d => .ldCD
  | .ldRR .c .e => .ldCE
  | .ldRR .c .h => .ldCH
  | .ldRR .c .l => .ldCL
  | .ldRR .c .a => .ldCA
  | .ldRR .d .b => .ldDB
  | .ldRR .d .c => .ldDC
  | .ldRR .d .d => .ldDD
  | .ldRR .d .e => .ldDE
  | .ldRR .d .h => .ldDH
  | .ldRR .d .l => .ldDL
  | .ldRR .d .a => .ldDA
  | .ldRR .e .b => .ldEB
  | .ldRR .e .c => .ldEC
  | .ldRR .e .d => .ldED
  | .ldRR .e .e => .ldEE
  | .ldRR .e .h => .ldEH
  | .ldRR .e .l => .ldEL
  | .ldRR .e .a => .ldEA
  | .ldRR .h .b => .ldHB
  | .ldRR .h .c => .ldHC
  | .ldRR .h .d => .ldHD
  | .ldRR .h .e => .ldHE
  | .ldRR .h .h => .ldHH
  | .ldRR .h .l => .ldHL
  | .ldRR .h .a => .ldHA
  | .ldRR .l .b => .ldLB
  | .ldRR .l .c => .ldLC
  | .ldRR .l .d => .ldLD
  | .ldRR .l .e => .ldLE
  | .ldRR .l .h => .ldLH
  | .ldRR .l .l => .ldLL
  | .ldRR .l .a => .ldLA
  | .ldRR .a .b => .ldAB
  | .ldRR .a .c => .ldAC
  | .ldRR .a .d => .ldAD
  | .ldRR .a .e => .ldAE
  | .ldRR .a .h => .ldAH
  | .ldRR .a .l => .ldAL
  | .ldRR .a .a => .ldAA
  | .ldRHlInd .b => .ldBIndHl
  | .ldRHlInd .c => .ldCIndHl
  | .ldRHlInd .d => .ldDIndHl
  | .ldRHlInd .e => .ldEIndHl
  | .ldRHlInd .h => .ldHIndHl
  | .ldRHlInd .l => .ldLIndHl
  | .ldRHlInd .a => .ldAIndHl
  | .ldHlIndR .b => .ldIndHlB
  | .ldHlIndR .c => .ldIndHlC
  | .ldHlIndR .d => .ldIndHlD
  | .ldHlIndR .e => .ldIndHlE
  | .ldHlIndR .h => .ldIndHlH
  | .ldHlIndR .l => .ldIndHlL
  | .ldHlIndR .a => .ldIndHlA
  | .scf => .scf
  | .ccf => .ccf
  | .push .bc => .pushBc
  | .push .de => .pushDe
  | .push .hl => .pushHl
  | .push .af => .pushAf
  | .pop .bc => .popBc
  | .pop .de => .popDe
  | .pop .hl => .popHl
  | .pop .af => .popAf
  | .unassigned op => .unassigned op

/-- The form of an instruction, the inverse of `Form.toInstr`. -/
def Instr.form : Instr → Form
  | .nop => .nop
  | .ldBcNn nn => .ldR16Nn .bc nn
  | .ldDeNn nn => .ldR16Nn .de nn
  | .ldHlNn nn => .ldR16Nn .hl nn
  | .ldSpNn nn => .ldR16Nn .sp nn
  | .ldBN n => .ldRN .b n
  | .ldCN n => .ldRN .c n
  | .ldDN n => .ldRN .d n
  | .ldEN n => .ldRN .e n
  | .ldHN n => .ldRN .h n
  | .ldLN n => .ldRN .l n
  | .ldAN n => .ldRN .a n
  | .ldIndHlN n => .ldHlN n
  | .incB => .incR .b
  | .incC => .incR .c
  | .incD => .incR .d
  | .incE => .incR .e
  | .incH => .incR .h
  | .incL => .incR .l
  | .incA => .incR .a
  | .incIndHl => .incHlInd
  | .decB => .decR .b
  | .decC => .decR .c
  | .decD => .decR .d
  | .decE => .decR .e
  | .decH => .decR .h
  | .decL => .decR .l
  | .decA => .decR .a
  | .decIndHl => .decHlInd
  | .incBc => .incR16 .bc
  | .incDe => .incR16 .de
  | .incHl => .incR16 .hl
  | .incSp => .incR16 .sp
  | .decBc => .decR16 .bc
  | .decDe => .decR16 .de
  | .decHl => .decR16 .hl
  | .decSp => .decR16 .sp
  | .addHlBc => .addHlR16 .bc
  | .addHlDe => .addHlR16 .de
  | .addHlHl => .addHlR16 .hl
  | .addHlSp => .addHlR16 .sp
  | .addAB => .addAR .b
  | .addAC => .addAR .c
  | .addAD => .addAR .d
  | .addAE => .addAR .e
  | .addAH => .addAR .h
  | .addAL => .addAR .l
  | .addAA => .addAR .a
  | .addAIndHl => .addAHlInd
  | .rlcA => .rlcA
  | .rrcA => .rrcA
  | .rlA => .rlA
  | .ldHliA => .ldHliA
  | .ldAHli => .ldAHli
  | .ldHldA => .ldHldA
  | .ldAHld => .ldAHld
  | .ldIndBcA => .ldIndBcA
  | .ldIndDeA => .ldIndDeA
  | .ldAIndBc => .ldAIndBc
  | .ldAIndDe => .ldAIndDe
  | .jr e => .jr e
  | .jrNz e => .jrCc .nz e
  | .jrZ e => .jrCc .z e
  | .jrNc e => .jrCc .nc e
  | .jrC e => .jrCc .c e
  | .ldBB => .ldRR .b .b
  | .ldBC => .ldRR .b .c
  | .ldBD => .ldRR .b .d
  | .ldBE => .ldRR .b .e
  | .ldBH => .ldRR .b .h
  | .ldBL => .ldRR .b .l
  | .ldBA => .ldRR .b .a
  | .ldCB => .ldRR .c .b
  | .ldCC => .ldRR .c .c
  | .ldCD => .ldRR .c .d
  | .ldCE => .ldRR .c .e
  | .ldCH => .ldRR .c .h
  | .ldCL => .ldRR .c .l
  | .ldCA => .ldRR .c .a
  | .ldDB => .ldRR .d .b
  | .ldDC => .ldRR .d .c
  | .ldDD => .ldRR .d .d
  | .ldDE => .ldRR .d .e
  | .ldDH => .ldRR .d .h
  | .ldDL => .ldRR .d .l
  | .ldDA => .ldRR .d .a
  | .ldEB => .ldRR .e .b
  | .ldEC => .ldRR .e .c
  | .ldED => .ldRR .e .d
  | .ldEE => .ldRR .e .e
  | .ldEH => .ldRR .e .h
  | .ldEL => .ldRR .e .l
  | .ldEA => .ldRR .e .a
  | .ldHB => .ldRR .h .b
  | .ldHC => .ldRR .h .c
  | .ldHD => .ldRR .h .d
  | .ldHE => .ldRR .h .e
  | .ldHH => .ldRR .h .h
  | .ldHL => .ldRR .h .l
  | .ldHA => .ldRR .h .a
  | .ldLB => .ldRR .l .b
  | .ldLC => .ldRR .l .c
  | .ldLD => .ldRR .l .d
  | .ldLE => .ldRR .l .e
  | .ldLH => .ldRR .l .h
  | .ldLL => .ldRR .l .l
  | .ldLA => .ldRR .l .a
  | .ldAB => .ldRR .a .b
  | .ldAC => .ldRR .a .c
  | .ldAD => .ldRR .a .d
  | .ldAE => .ldRR .a .e
  | .ldAH => .ldRR .a .h
  | .ldAL => .ldRR .a .l
  | .ldAA => .ldRR .a .a
  | .ldBIndHl => .ldRHlInd .b
  | .ldCIndHl => .ldRHlInd .c
  | .ldDIndHl => .ldRHlInd .d
  | .ldEIndHl => .ldRHlInd .e
  | .ldHIndHl => .ldRHlInd .h
  | .ldLIndHl => .ldRHlInd .l
  | .ldAIndHl => .ldRHlInd .a
  | .ldIndHlB => .ldHlIndR .b
  | .ldIndHlC => .ldHlIndR .c
  | .ldIndHlD => .ldHlIndR .d
  | .ldIndHlE => .ldHlIndR .e
  | .ldIndHlH => .ldHlIndR .h
  | .ldIndHlL => .ldHlIndR .l
  | .ldIndHlA => .ldHlIndR .a
  | .scf => .scf
  | .ccf => .ccf
  | .pushBc => .push .bc
  | .pushDe => .push .de
  | .pushHl => .push .hl
  | .pushAf => .push .af
  | .popBc => .pop .bc
  | .popDe => .pop .de
  | .popHl => .pop .hl
  | .popAf => .pop .af
  | .unassigned op => .unassigned op

/-- The instruction an opcode byte and the two bytes after it stand for: total (R61). -/
def instrOf (op n1 n2 : Byte) : Instr := (decodeForm op n1 n2).toInstr

/-! ### Lengths (R62, R77) -/

/-- The four formats (R62). -/
inductive Format where
  | op | opN | opE | opNn
  deriving DecidableEq, Repr

/-- The length in bytes (R62). -/
def Format.length : Format → Nat
  | .op => 1
  | .opN | .opE => 2
  | .opNn => 3

/-- The first byte alone fixes the format (R77). -/
def formatOf (op : Byte) : Format :=
  if [0x01#8, 0x11#8, 0x21#8, 0x31#8].contains op then .opNn
  else if [0x06#8, 0x0E#8, 0x16#8, 0x1E#8, 0x26#8, 0x2E#8, 0x36#8, 0x3E#8].contains op then .opN
  else if [0x18#8, 0x20#8, 0x28#8, 0x30#8, 0x38#8].contains op then .opE
  else .op

/-! ### The decoder from bytes -/

/-- Why a list of bytes holds no whole instruction. Every first byte has a meaning (R61), so the list can
only be too short. -/
inductive DecodeError where
  | noBytes
  | missingOperand (op : Byte)
  deriving DecidableEq, Repr

/-- The result of decoding: the instruction and the bytes after it, or the reason there is none. -/
inductive Decoded where
  | ok (i : Instr) (rest : List Byte)
  | rejected (e : DecodeError)
  deriving DecidableEq, Repr

/-- Decode the instruction at the front of a list of bytes, lowest address first. -/
def decode : List Byte → Decoded
  | [] => .rejected .noBytes
  | op :: rest =>
    match formatOf op, rest with
    | .op, _ => .ok (instrOf op 0 0) rest
    | .opN, n :: more => .ok (instrOf op n 0) more
    | .opE, e :: more => .ok (instrOf op e 0) more
    | .opNn, lo :: hi :: more => .ok (instrOf op lo hi) more
    | _, _ => .rejected (.missingOperand op)

/-- `n` bytes of a number, the least significant first. -/
def bytesOfNat : Nat → Nat → List Byte
  | 0, _ => []
  | n + 1, w => BitVec.ofNat 8 w :: bytesOfNat n (w / 256)

/-- The longest instruction has three bytes (R62); the bits above `nbits` are 0. -/
def tableBytes (nbits w : Nat) : List Byte := bytesOfNat 3 (w % 2 ^ nbits)

/-- The instruction the decoder reads from an opcode-table word whose first byte is its lowest. -/
def decodeTableWord (nbits w : Nat) : Option Instr :=
  match decode (tableBytes nbits w) with
  | .ok i _ => some i
  | .rejected _ => none

/-! ### The encoder (R71, R62) -/

/-- The opcode byte of each instruction, as the grid of R71 has it. -/
def Instr.opcode : Instr → Byte
  | .nop => 0x00
  | .ldBcNn _ => 0x01 | .ldDeNn _ => 0x11 | .ldHlNn _ => 0x21 | .ldSpNn _ => 0x31
  | .ldBN _ => 0x06 | .ldCN _ => 0x0E | .ldDN _ => 0x16 | .ldEN _ => 0x1E | .ldHN _ => 0x26
  | .ldLN _ => 0x2E | .ldAN _ => 0x3E | .ldIndHlN _ => 0x36
  | .incB => 0x04 | .incC => 0x0C | .incD => 0x14 | .incE => 0x1C | .incH => 0x24
  | .incL => 0x2C | .incA => 0x3C | .incIndHl => 0x34 | .decB => 0x05 | .decC => 0x0D
  | .decD => 0x15 | .decE => 0x1D | .decH => 0x25 | .decL => 0x2D | .decA => 0x3D
  | .decIndHl => 0x35 | .incBc => 0x03 | .incDe => 0x13 | .incHl => 0x23 | .incSp => 0x33
  | .decBc => 0x0B | .decDe => 0x1B | .decHl => 0x2B | .decSp => 0x3B
  | .addHlBc => 0x09 | .addHlDe => 0x19 | .addHlHl => 0x29 | .addHlSp => 0x39 | .addAB => 0x80
  | .addAC => 0x81 | .addAD => 0x82 | .addAE => 0x83 | .addAH => 0x84 | .addAL => 0x85
  | .addAA => 0x87 | .addAIndHl => 0x86
  | .rlcA => 0x07 | .rrcA => 0x0F | .rlA => 0x17
  | .ldHliA => 0x22 | .ldAHli => 0x2A | .ldHldA => 0x32 | .ldAHld => 0x3A | .ldIndBcA => 0x02
  | .ldIndDeA => 0x12 | .ldAIndBc => 0x0A | .ldAIndDe => 0x1A
  | .jr _ => 0x18 | .jrNz _ => 0x20 | .jrZ _ => 0x28 | .jrNc _ => 0x30 | .jrC _ => 0x38
  | .ldBB => 0x40 | .ldBC => 0x41 | .ldBD => 0x42 | .ldBE => 0x43 | .ldBH => 0x44
  | .ldBL => 0x45 | .ldBA => 0x47 | .ldCB => 0x48 | .ldCC => 0x49 | .ldCD => 0x4A
  | .ldCE => 0x4B | .ldCH => 0x4C | .ldCL => 0x4D | .ldCA => 0x4F | .ldDB => 0x50
  | .ldDC => 0x51 | .ldDD => 0x52 | .ldDE => 0x53 | .ldDH => 0x54 | .ldDL => 0x55
  | .ldDA => 0x57 | .ldEB => 0x58 | .ldEC => 0x59 | .ldED => 0x5A | .ldEE => 0x5B
  | .ldEH => 0x5C | .ldEL => 0x5D | .ldEA => 0x5F | .ldHB => 0x60 | .ldHC => 0x61
  | .ldHD => 0x62 | .ldHE => 0x63 | .ldHH => 0x64 | .ldHL => 0x65 | .ldHA => 0x67
  | .ldLB => 0x68 | .ldLC => 0x69 | .ldLD => 0x6A | .ldLE => 0x6B | .ldLH => 0x6C
  | .ldLL => 0x6D | .ldLA => 0x6F | .ldAB => 0x78 | .ldAC => 0x79 | .ldAD => 0x7A
  | .ldAE => 0x7B | .ldAH => 0x7C | .ldAL => 0x7D | .ldAA => 0x7F | .ldBIndHl => 0x46
  | .ldCIndHl => 0x4E | .ldDIndHl => 0x56 | .ldEIndHl => 0x5E | .ldHIndHl => 0x66
  | .ldLIndHl => 0x6E | .ldAIndHl => 0x7E | .ldIndHlB => 0x70 | .ldIndHlC => 0x71
  | .ldIndHlD => 0x72 | .ldIndHlE => 0x73 | .ldIndHlH => 0x74 | .ldIndHlL => 0x75
  | .ldIndHlA => 0x77
  | .scf => 0x37 | .ccf => 0x3F
  | .pushBc => 0xC5 | .pushDe => 0xD5 | .pushHl => 0xE5 | .pushAf => 0xF5 | .popBc => 0xC1
  | .popDe => 0xD1 | .popHl => 0xE1 | .popAf => 0xF1
  | .unassigned op => op

/-- The operand bytes after the opcode, lowest address first (R62, R68, R69). -/
def Instr.operandBytes : Instr → List Byte
  | .nop => []
  | .incB | .incC | .incD | .incE | .incH | .incL | .incA | .incIndHl | .decB | .decC | .decD
  | .decE | .decH | .decL | .decA | .decIndHl | .incBc | .incDe | .incHl | .incSp | .decBc
  | .decDe | .decHl | .decSp => []
  | .addHlBc | .addHlDe | .addHlHl | .addHlSp | .addAB | .addAC | .addAD | .addAE | .addAH
  | .addAL | .addAA | .addAIndHl => []
  | .rlcA | .rrcA | .rlA => []
  | .ldHliA | .ldAHli | .ldHldA | .ldAHld | .ldIndBcA | .ldIndDeA | .ldAIndBc | .ldAIndDe => []
  | .ldBB | .ldBC | .ldBD | .ldBE | .ldBH | .ldBL | .ldBA | .ldCB | .ldCC | .ldCD | .ldCE
  | .ldCH | .ldCL | .ldCA | .ldDB | .ldDC | .ldDD | .ldDE | .ldDH | .ldDL | .ldDA | .ldEB
  | .ldEC | .ldED | .ldEE | .ldEH | .ldEL | .ldEA | .ldHB | .ldHC | .ldHD | .ldHE | .ldHH
  | .ldHL | .ldHA | .ldLB | .ldLC | .ldLD | .ldLE | .ldLH | .ldLL | .ldLA | .ldAB | .ldAC
  | .ldAD | .ldAE | .ldAH | .ldAL | .ldAA | .ldBIndHl | .ldCIndHl | .ldDIndHl | .ldEIndHl
  | .ldHIndHl | .ldLIndHl | .ldAIndHl | .ldIndHlB | .ldIndHlC | .ldIndHlD | .ldIndHlE
  | .ldIndHlH | .ldIndHlL | .ldIndHlA => []
  | .scf | .ccf => []
  | .pushBc | .pushDe | .pushHl | .pushAf | .popBc | .popDe | .popHl | .popAf => []
  | .ldBN n | .ldCN n | .ldDN n | .ldEN n | .ldHN n | .ldLN n | .ldIndHlN n | .ldAN n => [n]
  | .jr e | .jrNz e | .jrZ e | .jrNc e | .jrC e => [e]
  | .ldBcNn nn | .ldDeNn nn | .ldHlNn nn | .ldSpNn nn => [loByte nn, hiByte nn]
  | .unassigned _ => []

/-- The bytes of an instruction, lowest address first. -/
def encode (i : Instr) : List Byte := i.opcode :: i.operandBytes

/-- The instruction's length in bytes (R62, R77). -/
def Instr.length (i : Instr) : Nat := (formatOf i.opcode).length

/-! ### The operand fields as values, for statements of R64 to R67 and R70 -/

/-- The 3-bit slot of a register (R64). -/
def R8.slot : R8 → BitVec 3
  | .b => 0
  | .c => 1
  | .d => 2
  | .e => 3
  | .h => 4
  | .l => 5
  | .a => 7

/-- The 2-bit code of a 16-bit operand (R65). -/
def R16.code : R16 → BitVec 2
  | .bc => 0
  | .de => 1
  | .hl => 2
  | .sp => 3

/-- The 2-bit code of a pair (R66). -/
def Pair.code : Pair → BitVec 2
  | .bc => 0
  | .de => 1
  | .hl => 2
  | .af => 3

/-- The 2-bit code of a condition (R67). -/
def Cond.code : Cond → BitVec 2
  | .nz => 0
  | .z => 1
  | .nc => 2
  | .c => 3

end Sys2Proof
end

