-- ==== Sys2Proof/Machine/Cycles.lean ====
section
/-! DEFINITION. The default values of the cost table `CYC` (70_reset_and_hazards.md R170), and what R171
asks of any other. -/

namespace Sys2Proof.Machine

/-- `CYC` (R170), in clock cycles. Of these 12 for `LD r16,nn`, 8 for `LD r,n` and 0 are the document's;
the rest are the spec's figures from general knowledge (D11). UNVERIFIED, log entry 8, unsafe. -/
def cyc : CycKey → Nat
  | .unassigned => 0
  | .nop => 4
  | .ldR16Nn => 12
  | .ldRN => 8
  | .ldHlN => 12
  | .incR | .decR => 4
  | .incHlInd | .decHlInd => 12
  | .incR16 | .decR16 => 8
  | .addHlR16 => 8
  | .addAR => 4
  | .addAHlInd => 8
  | .rlcA | .rrcA | .rlA => 4
  | .ldHliA | .ldAHli | .ldHldA | .ldAHld => 8
  | .ldRrIndA | .ldARrInd => 8
  | .jr => 12
  | .jrCcTaken => 12
  | .jrCcNotTaken => 8
  | .ldRR => 4
  | .ldRHlInd | .ldHlIndR => 8
  | .scf | .ccf => 4
  | .push => 16
  | .pop => 12

/-- What the document asks of any table of costs (70_reset_and_hazards.md R171). -/
structure CycOk (cyc : CycKey → Nat) : Prop where
  unassigned : cyc .unassigned = 0
  assigned : ∀ k, k ≠ .unassigned → 4 ≤ cyc k
  ldR16Nn : cyc .ldR16Nn = 12
  ldRN : cyc .ldRN = 8
  jrCc : cyc .jrCcTaken ≠ cyc .jrCcNotTaken

end Sys2Proof.Machine
end

