-- ==== Sys2Proof/Machine/State.lean ====
section
/-! DEFINITION. The state of the core (10_state.md R20), of the reference memory port behind it
(20_memory.md R47), and the two records of what the latest step handed out at its ports; the reasons a
step can stop; the state after reset (R37). -/

namespace Sys2Proof.Machine

/-- The bytes behind the memory port: (address, byte) pairs in rising order of address, listing no byte
that equals what an unlisted address reads as (`Memory.wf` in Ops.lean). -/
abbrev Memory := List Host.Cell

/-- One byte access at the memory port with its address and byte (20_memory.md R40, R41). -/
inductive Access where
  | read (addr : Word) (value : Byte)
  | write (addr : Word) (value : Byte)
  deriving DecidableEq, Repr

/-- What the step port returned for the latest step (00_scope.md R13, 10_state.md R34). -/
inductive Report where
  /-- No step has returned since reset. -/
  | none
  /-- `done(c)`: the instruction completed at cycle cost `c`. -/
  | done (cost : Nat)
  /-- `raise Unassigned(op)` (60_exceptions.md R140): the byte and the address it was fetched from; the
  cost reported is 0. -/
  | unassigned (op : Byte) (addr : Word)
  deriving DecidableEq, Repr

/-- The machine behind a port whose state is `σ`; `State` alone is the machine behind the reference port.
`a` to `sp` are the complete architectural state (R20); `mem` is the state of the port (R47), for the
reference port its array. `accesses` and `report` are the model's own fields, outputs of the latest step that no
meaning reads: log entries 2 and 3. -/
structure State (σ : Type := Memory) where
  a : Byte
  f : Byte
  b : Byte
  c : Byte
  d : Byte
  e : Byte
  h : Byte
  l : Byte
  pc : Word
  sp : Word
  mem : σ
  accesses : List Access
  report : Report
  deriving DecidableEq, Repr

/-- Reasons to stop with a fault. The core has none (60_exceptions.md R140). -/
inductive Fault where
  /-- Raised by `Sys2Proof.strictStep` (Safety.lean) alone, never by `step`: the opcode byte `op`,
  fetched from `addr`, carries no instruction, and the reading of R82 that stops there is asked for.
  Safe: it refuses runs that the core goes on with. -/
  | unassigned (op : Byte) (addr : Word)
  deriving DecidableEq, Repr

/-- Reasons to refuse. -/
inductive Refusal where
  /-- Answered by an arm of `exec` whose instruction has no meaning yet; no arm does. Safe. -/
  | notModelled (mnemonic : String)
  deriving DecidableEq, Repr

/-- What a meaning answers. -/
abbrev Result (σ : Type := Memory) := Host.Outcome (State σ) Fault Refusal

/-- After reset all ten registers are 0 and the first fetch is from 0x0000 (R37); the port's state is
whatever the port holds. -/
def State.resetWith {σ : Type} (port : σ) : State σ where
  a := 0
  f := 0
  b := 0
  c := 0
  d := 0
  e := 0
  h := 0
  l := 0
  pc := 0
  sp := 0
  mem := port
  accesses := []
  report := .none

/-- The machine after reset behind the reference port, whose memory lists nothing (log entry 1). -/
def State.reset : State := State.resetWith []

end Sys2Proof.Machine
end

