-- ==== Sys2Proof/Machine/Ops.lean ====
section
/-! DEFINITION. The named operations on the state: the reference memory port, the registers and their
pair views, instruction fetch, how a step ends, and reset as an event. -/

namespace Sys2Proof.Machine

/-! ### The reference memory port's array (20_memory.md R47) -/

/-- What an address that no cell lists reads as. The spec leaves the contents at reset open (R47, U21):
DESIGN CHOICE, log entry 1, unsafe. -/
def Memory.unlisted : Byte := 0x00#8

/-- The byte at an address. -/
def Memory.read : Memory → Word → Byte
  | [], _ => Memory.unlisted
  | (k, v) :: rest, a => if k = a.toNat then v else Memory.read rest a

/-- Put a cell before the first one of a higher address. -/
def Memory.insertCell (k : Nat) (v : Byte) : Memory → Memory
  | [] => [(k, v)]
  | (k', v') :: rest =>
    if k' < k then (k', v') :: Memory.insertCell k v rest else (k, v) :: (k', v') :: rest

/-- Set the byte at an address: the old cell goes, and a new one comes unless the address would read as
`v` without it. -/
def Memory.write (m : Memory) (a : Word) (v : Byte) : Memory :=
  let others := m.filter (fun cell => cell.1 ≠ a.toNat)
  if v = Memory.unlisted then others else Memory.insertCell a.toNat v others

/-- The canonical form: addresses strictly rising and inside the address space, and no cell that says
what an unlisted address reads as. -/
abbrev Memory.wf (m : Memory) : Prop :=
  m.Pairwise (fun x y => x.1 < y.1) ∧ ∀ cell ∈ m, cell.1 < 65536 ∧ cell.2 ≠ Memory.unlisted

/-- Bytes placed from an address upward, modulo 65536, as a loader outside the machine does. -/
def Memory.place (m : Memory) (a : Word) : List Byte → Memory
  | [] => m
  | v :: rest => Memory.place (m.write a v) (a + 1) rest

/-- The reference port (R47): reads have no side effect, a write sets the byte, every access succeeds. -/
def referencePort : Port Memory where
  read m a := (m.read a, m)
  write m a v := m.write a v

/-- The parameters at the defaults that every rule, example and vector of the spec uses (00_scope.md R7). -/
def defaults : Params Memory where
  ccfMode := Config.ccfMode
  popAfMask := Config.popAfMask
  cyc := cyc
  port := referencePort

variable {σ : Type}

/-! ### Plain field updates -/

def State.setF (s : State σ) (v : Byte) : State σ := { s with f := v }

def State.setPc (s : State σ) (v : Word) : State σ := { s with pc := v }

def State.setSp (s : State σ) (v : Word) : State σ := { s with sp := v }

def State.setMem (s : State σ) (m : σ) : State σ := { s with mem := m }

/-- Add an access to the record of the step, after the ones already there. -/
def State.logAccess (s : State σ) (x : Access) : State σ := { s with accesses := s.accesses ++ [x] }

def State.setReport (s : State σ) (r : Report) : State σ := { s with report := r }

/-- Replace the record of accesses; each step begins with an empty one of its own. -/
def State.withRecord (s : State σ) (xs : List Access) : State σ := { s with accesses := xs }

/-! ### Registers and pair views (10_state.md R21, R23) -/

/-- `x[r]`. -/
def State.getReg (s : State σ) : R8 → Byte
  | .b => s.b
  | .c => s.c
  | .d => s.d
  | .e => s.e
  | .h => s.h
  | .l => s.l
  | .a => s.a

/-- `x[r] <- v`. -/
def State.setReg (s : State σ) (r : R8) (v : Byte) : State σ :=
  match r with
  | .b => { s with b := v }
  | .c => { s with c := v }
  | .d => { s with d := v }
  | .e => { s with e := v }
  | .h => { s with h := v }
  | .l => { s with l := v }
  | .a => { s with a := v }

/-- `xp[pp]` (R23): the first-named register is the high byte. -/
def State.getPair (s : State σ) : Pair → Word
  | .bc => joinBytes (s.getReg .b) (s.getReg .c)
  | .de => joinBytes (s.getReg .d) (s.getReg .e)
  | .hl => joinBytes (s.getReg .h) (s.getReg .l)
  | .af => joinBytes (s.getReg .a) s.f

/-- `xp[pp] <- v` (R23), exact over all 65536 values, F included. -/
def State.setPair (s : State σ) (p : Pair) (v : Word) : State σ :=
  match p with
  | .bc => (s.setReg .b (hiByte v)).setReg .c (loByte v)
  | .de => (s.setReg .d (hiByte v)).setReg .e (loByte v)
  | .hl => (s.setReg .h (hiByte v)).setReg .l (loByte v)
  | .af => (s.setReg .a (hiByte v)).setF (loByte v)

/-! ### Port operations (20_memory.md R40 to R43), on any port -/

/-- `ReadByte(addr)` (R40): the byte the port gives, the state it leaves the port in, and the access
recorded. -/
def State.readByte (s : State σ) (port : Port σ) (a : Word) : Byte × State σ :=
  let v := port.read s.mem a
  (v.1, (s.setMem v.2).logAccess (.read a v.1))

/-- `WriteByte(addr, v)` (R41). -/
def State.writeByte (s : State σ) (port : Port σ) (a : Word) (v : Byte) : State σ :=
  (s.setMem (port.write s.mem a v)).logAccess (.write a v)

/-- `ReadWord(addr)` (R42): low byte first, the second address modulo 65536 (R48). -/
def State.readWord (s : State σ) (port : Port σ) (a : Word) : Word × State σ :=
  let lo := s.readByte port a
  let hi := lo.2.readByte port (a + 1)
  (joinBytes hi.1 lo.1, hi.2)

/-- `WriteWord(addr, v)` (R43): low byte first. -/
def State.writeWord (s : State σ) (port : Port σ) (a : Word) (v : Word) : State σ :=
  (s.writeByte port a (loByte v)).writeByte port (a + 1) (hiByte v)

/-! ### Instruction fetch (00_scope.md R12) -/

/-- `Fetch8()`: the byte at PC, then PC + 1 modulo 65536. -/
def State.fetch8 (s : State σ) (port : Port σ) : Byte × State σ :=
  let v := s.readByte port s.pc
  (v.1, v.2.setPc (s.pc + 1))

/-- `Fetch16()`: two bytes, the low one first. -/
def State.fetch16 (s : State σ) (port : Port σ) : Word × State σ :=
  let lo := s.fetch8 port
  let hi := lo.2.fetch8 port
  (joinBytes hi.1 lo.1, hi.2)

/-- Fetch the instruction at PC, opcode byte first and then the operand bytes its format has (R60, R62,
R77). PC is then past the whole instruction (R30). -/
def State.fetchInstr (s : State σ) (port : Port σ) : Instr × State σ :=
  let op := s.fetch8 port
  match formatOf op.1 with
  | .op => (instrOf op.1 0 0, op.2)
  | .opN | .opE =>
    let n := op.2.fetch8 port
    (instrOf op.1 n.1 0, n.2)
  | .opNn =>
    let nn := op.2.fetch16 port
    (instrOf op.1 (loByte nn.1) (hiByte nn.1), nn.2)

/-! ### How a step ends (R13) -/

/-- `done(CYC.k)`: the cost is reported and nothing else changes. -/
def finish (P : Params σ) (k : CycKey) (s : State σ) : Result σ := .next (s.setReport (.done (P.cyc k)))

/-- `raise Unassigned(op)` (40_nop_unassigned.md R81, 60_exceptions.md R140, R143), the core's one
abnormal outcome: nothing changes but the report, which names the byte and the address it was fetched
from. PC has passed that one byte already. There is no return from it (R144). -/
def raiseUnassigned (op : Byte) (s : State σ) : Result σ :=
  .next (s.setReport (.unassigned op (s.pc - 1)))

/-- The cost a report stands for at the step port (10_state.md R34): 0 for an unassigned byte, under every
table (R13, R171). -/
def Report.cost : Report → Option Nat
  | .none => Option.none
  | .done c => some c
  | .unassigned _ _ => some 0

/-! ### Reset as an event (70_reset_and_hazards.md R160) -/

/-- Reset between steps: the ten registers become 0 at once, no access is issued, and what is behind
the port stays. -/
def State.applyReset (s : State σ) : State σ := State.resetWith s.mem

end Sys2Proof.Machine
end

