-- ==== Sys2Proof/Machine/Flags.lean ====
section
/-! DEFINITION. The four flags of F (10_state.md R26, R27) and the flag formulas (R39). -/

namespace Sys2Proof.Machine

variable {σ : Type}

/-- Zero, Subtract, Half-carry, Carry. -/
inductive Flag where
  | z | n | h | c
  deriving DecidableEq, Repr

/-- The bit of F a flag stands in (R26). -/
def Flag.bit : Flag → Nat
  | .z => 7
  | .n => 6
  | .h => 5
  | .c => 4

/-- The byte with that bit alone (R27). -/
def Flag.mask : Flag → Byte
  | .z => 0x80#8
  | .n => 0x40#8
  | .h => 0x20#8
  | .c => 0x10#8

/-- `fZ`, `fN`, `fH`, `fC` (R26). -/
def State.getFlag (s : State σ) (x : Flag) : Bool := s.f.getLsbD x.bit

/-- A flag write (R27): setting ors the bit in, clearing clears it, every other bit of F stays. -/
def State.setFlag (s : State σ) (x : Flag) (v : Bool) : State σ :=
  s.setF (if v then s.f ||| x.mask else s.f &&& ~~~x.mask)

/-! ### The formulas of R39, on unbounded integers -/

/-- Carry out of bit 3. -/
def halfAdd8 (a b : Byte) : Bool :=
  decide ((a &&& 0x0F#8).toNat + (b &&& 0x0F#8).toNat ≥ 0x10)

/-- Borrow into bit 3 of `a - b` (90_conflicts.md C7). -/
def halfSub8 (a b : Byte) : Bool := decide ((a &&& 0x0F#8).toNat < (b &&& 0x0F#8).toNat)

/-- Carry out of bit 7. -/
def carry8 (a b : Byte) : Bool := decide (a.toNat > 0xFF - b.toNat)

/-- Carry out of bit 11. -/
def halfAdd16 (h r : Word) : Bool :=
  decide ((h &&& 0x0FFF#16).toNat + (r &&& 0x0FFF#16).toNat ≥ 0x1000)

/-- Carry out of bit 15. -/
def carry16 (h r : Word) : Bool := decide (h.toNat > 0xFFFF - r.toNat)

/-! ### The flag writes the families share (R29) -/

/-- Zero from the final byte, Subtract and Half-carry as given; Carry stays. -/
def State.setZNH (s : State σ) (w : Byte) (n h : Bool) : State σ :=
  ((s.setFlag .z (w == 0)).setFlag .n n).setFlag .h h

/-- Subtract cleared, Half-carry and Carry as given; Zero stays. -/
def State.setNHC (s : State σ) (h c : Bool) : State σ :=
  ((s.setFlag .n false).setFlag .h h).setFlag .c c

end Sys2Proof.Machine
end

