-- ==== Sys2Proof/Machine/Operands.lean ====
section
/-! DEFINITION. The operand forms (30_encoding.md R64 to R68). -/

namespace Sys2Proof.Machine

variable {σ : Type}

/-- `get(loc)` (R64): a register, or a byte read at HL. -/
def State.getLoc (s : State σ) (port : Port σ) : Loc → Byte × State σ
  | .reg r => (s.getReg r, s)
  | .hlInd => s.readByte port (s.getPair .hl)

/-- `set(loc, v)` (R64): a register, or a byte write at HL as it is at that moment. -/
def State.setLoc (s : State σ) (port : Port σ) (x : Loc) (v : Byte) : State σ :=
  match x with
  | .reg r => s.setReg r v
  | .hlInd => s.writeByte port (s.getPair .hl) v

/-- `rd16(sel)` (R65). -/
def State.getR16 (s : State σ) : R16 → Word
  | .bc => s.getPair .bc
  | .de => s.getPair .de
  | .hl => s.getPair .hl
  | .sp => s.sp

/-- `wr16(sel, v)` (R65). -/
def State.setR16 (s : State σ) (p : R16) (v : Word) : State σ :=
  match p with
  | .bc => s.setPair .bc v
  | .de => s.setPair .de v
  | .hl => s.setPair .hl v
  | .sp => s.setSp v

/-- Whether a condition holds (R67). -/
def State.condHolds (s : State σ) : Cond → Bool
  | .nz => !s.getFlag .z
  | .z => s.getFlag .z
  | .nc => !s.getFlag .c
  | .c => s.getFlag .c

/-- `sext_16` (00_scope.md R9): the word of the same two's-complement value. -/
def sext16 (v : Byte) : Word := v.signExtend 16

/-- One bit as a byte, 0 or 1. -/
def bitByte (v : Bool) : Byte := if v then 1 else 0

end Sys2Proof.Machine
end

