-- ==== Sys2Proof/Machine/Add.lean ====
section
/-! DEFINITION. Addition (43_add.md R100 to R103). -/

namespace Sys2Proof.Machine

variable {σ : Type}

/-- `ADD HL,r16` (R100): both operands are read before HL is written; Zero stays. -/
def addHlR16 (P : Params σ) (p : R16) (s : State σ) : Result σ :=
  let h := s.getPair .hl
  let r := s.getR16 p
  finish P .addHlR16 ((s.setPair .hl (h + r)).setNHC (halfAdd16 h r) (carry16 h r))

/-- `ADD A,r`, `ADD A,(HL)` (R101, R102): Zero is of the truncated result. -/
def addA (P : Params σ) (x : Loc) (k : CycKey) (s : State σ) : Result σ :=
  let a := s.getReg .a
  let b := s.getLoc P.port x
  let w := a + b.1
  finish P k (((b.2.setReg .a w).setZNH w false (halfAdd8 a b.1)).setFlag .c (carry8 a b.1))

/-- 09 `ADD HL,BC` (R100). -/
def execAddHlBc (s : State) : Result := addHlR16 defaults .bc s

/-- 19 `ADD HL,DE` (R100). -/
def execAddHlDe (s : State) : Result := addHlR16 defaults .de s

/-- 29 `ADD HL,HL` (R100). -/
def execAddHlHl (s : State) : Result := addHlR16 defaults .hl s

/-- 39 `ADD HL,SP` (R100). -/
def execAddHlSp (s : State) : Result := addHlR16 defaults .sp s

/-- 80 `ADD A,B` (R101). -/
def execAddAB (s : State) : Result := addA defaults (.reg .b) .addAR s

/-- 81 `ADD A,C` (R101). -/
def execAddAC (s : State) : Result := addA defaults (.reg .c) .addAR s

/-- 82 `ADD A,D` (R101). -/
def execAddAD (s : State) : Result := addA defaults (.reg .d) .addAR s

/-- 83 `ADD A,E` (R101). -/
def execAddAE (s : State) : Result := addA defaults (.reg .e) .addAR s

/-- 84 `ADD A,H` (R101). -/
def execAddAH (s : State) : Result := addA defaults (.reg .h) .addAR s

/-- 85 `ADD A,L` (R101). -/
def execAddAL (s : State) : Result := addA defaults (.reg .l) .addAR s

/-- 87 `ADD A,A` (R101). -/
def execAddAA (s : State) : Result := addA defaults (.reg .a) .addAR s

/-- 86 `ADD A,(HL)` (R102). -/
def execAddAIndHl (s : State) : Result := addA defaults .hlInd .addAHlInd s

end Sys2Proof.Machine
end

