-- ==== Sys2Proof/Machine/CarryFlag.lean ====
section
/-! DEFINITION. Flag-only instructions (48_scf_ccf.md R130, R131). -/

namespace Sys2Proof.Machine

variable {σ : Type}

/-- What `CCF` makes of Carry under a value of `CCF_MODE` (R131). -/
def ccfCarry (m : CcfMode) (carry : Bool) : Bool :=
  match m with
  | .toggle => !carry
  | .clear => false

/-- `CCF` (R131) under the parameter `CCF_MODE`: Subtract and Half-carry are cleared, Zero stays. -/
def ccfWith (P : Params σ) (s : State σ) : Result σ :=
  finish P .ccf (s.setNHC false (ccfCarry P.ccfMode (s.getFlag .c)))

/-- 37 `SCF` (R130). -/
def execScf (s : State) : Result := finish defaults .scf (s.setNHC false true)

/-- 3F `CCF` (R131). -/
def execCcf (s : State) : Result := ccfWith defaults s

end Sys2Proof.Machine
end

