-- ==== Sys2Proof/Machine/Immediate.lean ====
section
/-! DEFINITION. Immediate loads (41_immediate_loads.md R85 to R87). The operand bytes have been fetched. -/

namespace Sys2Proof.Machine

variable {σ : Type}

/-- `wr16(r16(op[5:4]), nn)` (R85). -/
def ldR16Nn (P : Params σ) (p : R16) (nn : Word) (s : State σ) : Result σ := finish P .ldR16Nn (s.setR16 p nn)

/-- The immediate into a register or into the cell at HL (R86, R87). -/
def ldLocN (P : Params σ) (x : Loc) (k : CycKey) (n : Byte) (s : State σ) : Result σ := finish P k (s.setLoc P.port x n)

/-- 01 `LD BC,nn` (R85). -/
def execLdBcNn (nn : Word) (s : State) : Result := ldR16Nn defaults .bc nn s

/-- 11 `LD DE,nn` (R85). -/
def execLdDeNn (nn : Word) (s : State) : Result := ldR16Nn defaults .de nn s

/-- 21 `LD HL,nn` (R85). -/
def execLdHlNn (nn : Word) (s : State) : Result := ldR16Nn defaults .hl nn s

/-- 31 `LD SP,nn` (R85). -/
def execLdSpNn (nn : Word) (s : State) : Result := ldR16Nn defaults .sp nn s

/-- 06 `LD B,n` (R86). -/
def execLdBN (n : Byte) (s : State) : Result := ldLocN defaults (.reg .b) .ldRN n s

/-- 0E `LD C,n` (R86). -/
def execLdCN (n : Byte) (s : State) : Result := ldLocN defaults (.reg .c) .ldRN n s

/-- 16 `LD D,n` (R86). -/
def execLdDN (n : Byte) (s : State) : Result := ldLocN defaults (.reg .d) .ldRN n s

/-- 1E `LD E,n` (R86). -/
def execLdEN (n : Byte) (s : State) : Result := ldLocN defaults (.reg .e) .ldRN n s

/-- 26 `LD H,n` (R86). -/
def execLdHN (n : Byte) (s : State) : Result := ldLocN defaults (.reg .h) .ldRN n s

/-- 2E `LD L,n` (R86). -/
def execLdLN (n : Byte) (s : State) : Result := ldLocN defaults (.reg .l) .ldRN n s

/-- 3E `LD A,n` (R86). -/
def execLdAN (n : Byte) (s : State) : Result := ldLocN defaults (.reg .a) .ldRN n s

/-- 36 `LD (HL),n` (R87). -/
def execLdIndHlN (n : Byte) (s : State) : Result := ldLocN defaults .hlInd .ldHlN n s

end Sys2Proof.Machine
end

