-- ==== Sys2Proof/Machine/IncDec.lean ====
section
/-! DEFINITION. Increment and decrement (42_inc_dec.md R90 to R95). -/

namespace Sys2Proof.Machine

variable {σ : Type}

/-- `INC r`, `INC (HL)` (R90, R91): the operand plus 1 modulo 256; Carry stays. -/
def incLoc (P : Params σ) (x : Loc) (k : CycKey) (s : State σ) : Result σ :=
  let v := s.getLoc P.port x
  let w := v.1 + 1
  finish P k ((v.2.setLoc P.port x w).setZNH w false (halfAdd8 v.1 1))

/-- `DEC r`, `DEC (HL)` (R92, R93): the operand minus 1 modulo 256; Subtract is set, as the
spec decides (D6; UNVERIFIED, log entry 11, unsafe); Carry stays. -/
def decLoc (P : Params σ) (x : Loc) (k : CycKey) (s : State σ) : Result σ :=
  let v := s.getLoc P.port x
  let w := v.1 - 1
  finish P k ((v.2.setLoc P.port x w).setZNH w true (halfSub8 v.1 1))

/-- `INC r16` (R94): no flag is written. -/
def incR16 (P : Params σ) (p : R16) (s : State σ) : Result σ := finish P .incR16 (s.setR16 p (s.getR16 p + 1))

/-- `DEC r16` (R95): no flag is written. -/
def decR16 (P : Params σ) (p : R16) (s : State σ) : Result σ := finish P .decR16 (s.setR16 p (s.getR16 p - 1))

/-- 04 `INC B` (R90). -/
def execIncB (s : State) : Result := incLoc defaults (.reg .b) .incR s

/-- 0C `INC C` (R90). -/
def execIncC (s : State) : Result := incLoc defaults (.reg .c) .incR s

/-- 14 `INC D` (R90). -/
def execIncD (s : State) : Result := incLoc defaults (.reg .d) .incR s

/-- 1C `INC E` (R90). -/
def execIncE (s : State) : Result := incLoc defaults (.reg .e) .incR s

/-- 24 `INC H` (R90). -/
def execIncH (s : State) : Result := incLoc defaults (.reg .h) .incR s

/-- 2C `INC L` (R90). -/
def execIncL (s : State) : Result := incLoc defaults (.reg .l) .incR s

/-- 3C `INC A` (R90). -/
def execIncA (s : State) : Result := incLoc defaults (.reg .a) .incR s

/-- 34 `INC (HL)` (R91). -/
def execIncIndHl (s : State) : Result := incLoc defaults .hlInd .incHlInd s

/-- 05 `DEC B` (R92). -/
def execDecB (s : State) : Result := decLoc defaults (.reg .b) .decR s

/-- 0D `DEC C` (R92). -/
def execDecC (s : State) : Result := decLoc defaults (.reg .c) .decR s

/-- 15 `DEC D` (R92). -/
def execDecD (s : State) : Result := decLoc defaults (.reg .d) .decR s

/-- 1D `DEC E` (R92). -/
def execDecE (s : State) : Result := decLoc defaults (.reg .e) .decR s

/-- 25 `DEC H` (R92). -/
def execDecH (s : State) : Result := decLoc defaults (.reg .h) .decR s

/-- 2D `DEC L` (R92). -/
def execDecL (s : State) : Result := decLoc defaults (.reg .l) .decR s

/-- 3D `DEC A` (R92). -/
def execDecA (s : State) : Result := decLoc defaults (.reg .a) .decR s

/-- 35 `DEC (HL)` (R93). -/
def execDecIndHl (s : State) : Result := decLoc defaults .hlInd .decHlInd s

/-- 03 `INC BC` (R94). -/
def execIncBc (s : State) : Result := incR16 defaults .bc s

/-- 13 `INC DE` (R94). -/
def execIncDe (s : State) : Result := incR16 defaults .de s

/-- 23 `INC HL` (R94). -/
def execIncHl (s : State) : Result := incR16 defaults .hl s

/-- 33 `INC SP` (R94). -/
def execIncSp (s : State) : Result := incR16 defaults .sp s

/-- 0B `DEC BC` (R95). -/
def execDecBc (s : State) : Result := decR16 defaults .bc s

/-- 1B `DEC DE` (R95). -/
def execDecDe (s : State) : Result := decR16 defaults .de s

/-- 2B `DEC HL` (R95). -/
def execDecHl (s : State) : Result := decR16 defaults .hl s

/-- 3B `DEC SP` (R95). -/
def execDecSp (s : State) : Result := decR16 defaults .sp s

end Sys2Proof.Machine
end

