-- ==== Sys2Proof/Machine/Indirect.lean ====
section
/-! DEFINITION. Indirect loads and stores of A (45_indirect_a.md R110 to R115). -/

namespace Sys2Proof.Machine

variable {σ : Type}

/-- A stored at the address in a pair, which then becomes `next` (R110, R112). -/
def storeAThenHl (P : Params σ) (k : CycKey) (next : Word) (s : State σ) : Result σ :=
  finish P k ((s.writeByte P.port (s.getPair .hl) (s.getReg .a)).setPair .hl next)

/-- A loaded from the address in HL, which then becomes `next` (R111, R113). -/
def loadAThenHl (P : Params σ) (k : CycKey) (next : Word) (s : State σ) : Result σ :=
  let v := s.readByte P.port (s.getPair .hl)
  finish P k ((v.2.setReg .a v.1).setPair .hl next)

/-- A stored at the address in BC or DE, which stays (R114). -/
def storeAAt (P : Params σ) (p : Pair) (s : State σ) : Result σ :=
  finish P .ldRrIndA (s.writeByte P.port (s.getPair p) (s.getReg .a))

/-- A loaded from the address in BC or DE, which stays (R115). -/
def loadAAt (P : Params σ) (p : Pair) (s : State σ) : Result σ :=
  let v := s.readByte P.port (s.getPair p)
  finish P .ldARrInd (v.2.setReg .a v.1)

/-- 22 `LD (HL+),A` (R110). -/
def execLdHliA (s : State) : Result := storeAThenHl defaults .ldHliA (s.getPair .hl + 1) s

/-- 2A `LD A,(HL+)` (R111). -/
def execLdAHli (s : State) : Result := loadAThenHl defaults .ldAHli (s.getPair .hl + 1) s

/-- 32 `LD (HL-),A` (R112). -/
def execLdHldA (s : State) : Result := storeAThenHl defaults .ldHldA (s.getPair .hl - 1) s

/-- 3A `LD A,(HL-)` (R113). -/
def execLdAHld (s : State) : Result := loadAThenHl defaults .ldAHld (s.getPair .hl - 1) s

/-- 02 `LD (BC),A` (R114). -/
def execLdIndBcA (s : State) : Result := storeAAt defaults .bc s

/-- 12 `LD (DE),A` (R114). -/
def execLdIndDeA (s : State) : Result := storeAAt defaults .de s

/-- 0A `LD A,(BC)` (R115). -/
def execLdAIndBc (s : State) : Result := loadAAt defaults .bc s

/-- 1A `LD A,(DE)` (R115). -/
def execLdAIndDe (s : State) : Result := loadAAt defaults .de s

end Sys2Proof.Machine
end

