-- ==== Sys2Proof/Machine/Jump.lean ====
section
/-! DEFINITION. Relative jumps (46_jr.md R120 to R122). PC is already past the displacement byte. -/

namespace Sys2Proof.Machine

variable {σ : Type}

/-- `pc <- pc +16 sext_16(e)` (R120). -/
def jumpBy (P : Params σ) (k : CycKey) (e : Byte) (s : State σ) : Result σ := finish P k (s.setPc (s.pc + sext16 e))

/-- The conditional form (R121): the displacement is added only when the condition holds. -/
def jumpIf (P : Params σ) (x : Cond) (e : Byte) (s : State σ) : Result σ :=
  if s.condHolds x then jumpBy P .jrCcTaken e s else finish P .jrCcNotTaken s

/-- 18 `JR e` (R120). -/
def execJr (e : Byte) (s : State) : Result := jumpBy defaults .jr e s

/-- 20 `JR NZ,e` (R121). -/
def execJrNz (e : Byte) (s : State) : Result := jumpIf defaults .nz e s

/-- 28 `JR Z,e` (R121). -/
def execJrZ (e : Byte) (s : State) : Result := jumpIf defaults .z e s

/-- 30 `JR NC,e` (R121). -/
def execJrNc (e : Byte) (s : State) : Result := jumpIf defaults .nc e s

/-- 38 `JR C,e` (R121). -/
def execJrC (e : Byte) (s : State) : Result := jumpIf defaults .c e s

end Sys2Proof.Machine
end

