-- ==== Sys2Proof/Machine/LoadReg.lean ====
section
/-! DEFINITION. The `LD r,r'` block (47_ld_r_r.md R125 to R127). -/

namespace Sys2Proof.Machine

variable {σ : Type}

/-- The source read, then the destination written (R125 to R127). -/
def ldLocLoc (P : Params σ) (dst src : Loc) (k : CycKey) (s : State σ) : Result σ :=
  let v := s.getLoc P.port src
  finish P k (v.2.setLoc P.port dst v.1)

/-- 40 `LD B,B` (R125). -/
def execLdBB (s : State) : Result := ldLocLoc defaults (.reg .b) (.reg .b) .ldRR s

/-- 41 `LD B,C` (R125). -/
def execLdBC (s : State) : Result := ldLocLoc defaults (.reg .b) (.reg .c) .ldRR s

/-- 42 `LD B,D` (R125). -/
def execLdBD (s : State) : Result := ldLocLoc defaults (.reg .b) (.reg .d) .ldRR s

/-- 43 `LD B,E` (R125). -/
def execLdBE (s : State) : Result := ldLocLoc defaults (.reg .b) (.reg .e) .ldRR s

/-- 44 `LD B,H` (R125). -/
def execLdBH (s : State) : Result := ldLocLoc defaults (.reg .b) (.reg .h) .ldRR s

/-- 45 `LD B,L` (R125). -/
def execLdBL (s : State) : Result := ldLocLoc defaults (.reg .b) (.reg .l) .ldRR s

/-- 47 `LD B,A` (R125). -/
def execLdBA (s : State) : Result := ldLocLoc defaults (.reg .b) (.reg .a) .ldRR s

/-- 48 `LD C,B` (R125). -/
def execLdCB (s : State) : Result := ldLocLoc defaults (.reg .c) (.reg .b) .ldRR s

/-- 49 `LD C,C` (R125). -/
def execLdCC (s : State) : Result := ldLocLoc defaults (.reg .c) (.reg .c) .ldRR s

/-- 4A `LD C,D` (R125). -/
def execLdCD (s : State) : Result := ldLocLoc defaults (.reg .c) (.reg .d) .ldRR s

/-- 4B `LD C,E` (R125). -/
def execLdCE (s : State) : Result := ldLocLoc defaults (.reg .c) (.reg .e) .ldRR s

/-- 4C `LD C,H` (R125). -/
def execLdCH (s : State) : Result := ldLocLoc defaults (.reg .c) (.reg .h) .ldRR s

/-- 4D `LD C,L` (R125). -/
def execLdCL (s : State) : Result := ldLocLoc defaults (.reg .c) (.reg .l) .ldRR s

/-- 4F `LD C,A` (R125). -/
def execLdCA (s : State) : Result := ldLocLoc defaults (.reg .c) (.reg .a) .ldRR s

/-- 50 `LD D,B` (R125). -/
def execLdDB (s : State) : Result := ldLocLoc defaults (.reg .d) (.reg .b) .ldRR s

/-- 51 `LD D,C` (R125). -/
def execLdDC (s : State) : Result := ldLocLoc defaults (.reg .d) (.reg .c) .ldRR s

/-- 52 `LD D,D` (R125). -/
def execLdDD (s : State) : Result := ldLocLoc defaults (.reg .d) (.reg .d) .ldRR s

/-- 53 `LD D,E` (R125). -/
def execLdDE (s : State) : Result := ldLocLoc defaults (.reg .d) (.reg .e) .ldRR s

/-- 54 `LD D,H` (R125). -/
def execLdDH (s : State) : Result := ldLocLoc defaults (.reg .d) (.reg .h) .ldRR s

/-- 55 `LD D,L` (R125). -/
def execLdDL (s : State) : Result := ldLocLoc defaults (.reg .d) (.reg .l) .ldRR s

/-- 57 `LD D,A` (R125). -/
def execLdDA (s : State) : Result := ldLocLoc defaults (.reg .d) (.reg .a) .ldRR s

/-- 58 `LD E,B` (R125). -/
def execLdEB (s : State) : Result := ldLocLoc defaults (.reg .e) (.reg .b) .ldRR s

/-- 59 `LD E,C` (R125). -/
def execLdEC (s : State) : Result := ldLocLoc defaults (.reg .e) (.reg .c) .ldRR s

/-- 5A `LD E,D` (R125). -/
def execLdED (s : State) : Result := ldLocLoc defaults (.reg .e) (.reg .d) .ldRR s

/-- 5B `LD E,E` (R125). -/
def execLdEE (s : State) : Result := ldLocLoc defaults (.reg .e) (.reg .e) .ldRR s

/-- 5C `LD E,H` (R125). -/
def execLdEH (s : State) : Result := ldLocLoc defaults (.reg .e) (.reg .h) .ldRR s

/-- 5D `LD E,L` (R125). -/
def execLdEL (s : State) : Result := ldLocLoc defaults (.reg .e) (.reg .l) .ldRR s

/-- 5F `LD E,A` (R125). -/
def execLdEA (s : State) : Result := ldLocLoc defaults (.reg .e) (.reg .a) .ldRR s

/-- 60 `LD H,B` (R125). -/
def execLdHB (s : State) : Result := ldLocLoc defaults (.reg .h) (.reg .b) .ldRR s

/-- 61 `LD H,C` (R125). -/
def execLdHC (s : State) : Result := ldLocLoc defaults (.reg .h) (.reg .c) .ldRR s

/-- 62 `LD H,D` (R125). -/
def execLdHD (s : State) : Result := ldLocLoc defaults (.reg .h) (.reg .d) .ldRR s

/-- 63 `LD H,E` (R125). -/
def execLdHE (s : State) : Result := ldLocLoc defaults (.reg .h) (.reg .e) .ldRR s

/-- 64 `LD H,H` (R125). -/
def execLdHH (s : State) : Result := ldLocLoc defaults (.reg .h) (.reg .h) .ldRR s

/-- 65 `LD H,L` (R125). -/
def execLdHL (s : State) : Result := ldLocLoc defaults (.reg .h) (.reg .l) .ldRR s

/-- 67 `LD H,A` (R125). -/
def execLdHA (s : State) : Result := ldLocLoc defaults (.reg .h) (.reg .a) .ldRR s

/-- 68 `LD L,B` (R125). -/
def execLdLB (s : State) : Result := ldLocLoc defaults (.reg .l) (.reg .b) .ldRR s

/-- 69 `LD L,C` (R125). -/
def execLdLC (s : State) : Result := ldLocLoc defaults (.reg .l) (.reg .c) .ldRR s

/-- 6A `LD L,D` (R125). -/
def execLdLD (s : State) : Result := ldLocLoc defaults (.reg .l) (.reg .d) .ldRR s

/-- 6B `LD L,E` (R125). -/
def execLdLE (s : State) : Result := ldLocLoc defaults (.reg .l) (.reg .e) .ldRR s

/-- 6C `LD L,H` (R125). -/
def execLdLH (s : State) : Result := ldLocLoc defaults (.reg .l) (.reg .h) .ldRR s

/-- 6D `LD L,L` (R125). -/
def execLdLL (s : State) : Result := ldLocLoc defaults (.reg .l) (.reg .l) .ldRR s

/-- 6F `LD L,A` (R125). -/
def execLdLA (s : State) : Result := ldLocLoc defaults (.reg .l) (.reg .a) .ldRR s

/-- 78 `LD A,B` (R125). -/
def execLdAB (s : State) : Result := ldLocLoc defaults (.reg .a) (.reg .b) .ldRR s

/-- 79 `LD A,C` (R125). -/
def execLdAC (s : State) : Result := ldLocLoc defaults (.reg .a) (.reg .c) .ldRR s

/-- 7A `LD A,D` (R125). -/
def execLdAD (s : State) : Result := ldLocLoc defaults (.reg .a) (.reg .d) .ldRR s

/-- 7B `LD A,E` (R125). -/
def execLdAE (s : State) : Result := ldLocLoc defaults (.reg .a) (.reg .e) .ldRR s

/-- 7C `LD A,H` (R125). -/
def execLdAH (s : State) : Result := ldLocLoc defaults (.reg .a) (.reg .h) .ldRR s

/-- 7D `LD A,L` (R125). -/
def execLdAL (s : State) : Result := ldLocLoc defaults (.reg .a) (.reg .l) .ldRR s

/-- 7F `LD A,A` (R125). -/
def execLdAA (s : State) : Result := ldLocLoc defaults (.reg .a) (.reg .a) .ldRR s

/-- 46 `LD B,(HL)` (R126). -/
def execLdBIndHl (s : State) : Result := ldLocLoc defaults (.reg .b) .hlInd .ldRHlInd s

/-- 4E `LD C,(HL)` (R126). -/
def execLdCIndHl (s : State) : Result := ldLocLoc defaults (.reg .c) .hlInd .ldRHlInd s

/-- 56 `LD D,(HL)` (R126). -/
def execLdDIndHl (s : State) : Result := ldLocLoc defaults (.reg .d) .hlInd .ldRHlInd s

/-- 5E `LD E,(HL)` (R126). -/
def execLdEIndHl (s : State) : Result := ldLocLoc defaults (.reg .e) .hlInd .ldRHlInd s

/-- 66 `LD H,(HL)` (R126). -/
def execLdHIndHl (s : State) : Result := ldLocLoc defaults (.reg .h) .hlInd .ldRHlInd s

/-- 6E `LD L,(HL)` (R126). -/
def execLdLIndHl (s : State) : Result := ldLocLoc defaults (.reg .l) .hlInd .ldRHlInd s

/-- 7E `LD A,(HL)` (R126). -/
def execLdAIndHl (s : State) : Result := ldLocLoc defaults (.reg .a) .hlInd .ldRHlInd s

/-- 70 `LD (HL),B` (R127). -/
def execLdIndHlB (s : State) : Result := ldLocLoc defaults .hlInd (.reg .b) .ldHlIndR s

/-- 71 `LD (HL),C` (R127). -/
def execLdIndHlC (s : State) : Result := ldLocLoc defaults .hlInd (.reg .c) .ldHlIndR s

/-- 72 `LD (HL),D` (R127). -/
def execLdIndHlD (s : State) : Result := ldLocLoc defaults .hlInd (.reg .d) .ldHlIndR s

/-- 73 `LD (HL),E` (R127). -/
def execLdIndHlE (s : State) : Result := ldLocLoc defaults .hlInd (.reg .e) .ldHlIndR s

/-- 74 `LD (HL),H` (R127). -/
def execLdIndHlH (s : State) : Result := ldLocLoc defaults .hlInd (.reg .h) .ldHlIndR s

/-- 75 `LD (HL),L` (R127). -/
def execLdIndHlL (s : State) : Result := ldLocLoc defaults .hlInd (.reg .l) .ldHlIndR s

/-- 77 `LD (HL),A` (R127). -/
def execLdIndHlA (s : State) : Result := ldLocLoc defaults .hlInd (.reg .a) .ldHlIndR s

end Sys2Proof.Machine
end

