-- ==== Sys2Proof/Machine/Nop.lean ====
section
/-! DEFINITION. `NOP` and the unassigned-opcode default (40_nop_unassigned.md R80, R81). -/

namespace Sys2Proof.Machine

/-- 00 `NOP` (R80). -/
def execNop (s : State) : Result := finish defaults .nop s

/-- Any of the 118 unassigned bytes (R75, R81): the outcome, with nothing changed beyond the fetch. -/
def execUnassigned (op : Byte) (s : State) : Result := raiseUnassigned op s

end Sys2Proof.Machine
end

