-- ==== Sys2Proof/Machine/Rotate.lean ====
section
/-! DEFINITION. Rotates of A (44_rotate_a.md R105 to R107). Zero follows the result: the document's rule, which
differs from the LR35902 (93_implementation_defined.md U6, UNVERIFIED, log entry 12, unsafe). -/

namespace Sys2Proof.Machine

variable {σ : Type}

/-- What the three rotates share: A becomes `w`, all four flags are written. -/
def rotateTo (P : Params σ) (k : CycKey) (w : Byte) (out : Bool) (s : State σ) : Result σ :=
  finish P k (((s.setReg .a w).setZNH w false false).setFlag .c out)

/-- A rotated left, bit 7 coming back into bit 0 (R105). -/
def rotLeft (a : Byte) : Byte := (a <<< 1) ||| bitByte (a.getLsbD 7)

/-- A rotated right, bit 0 coming back into bit 7 (R106). -/
def rotRight (a : Byte) : Byte := (a >>> 1) ||| (bitByte (a.getLsbD 0) <<< 7)

/-- A rotated left with the old Carry coming into bit 0 (R107). -/
def rotLeftCarry (a : Byte) (k : Bool) : Byte := (a <<< 1) ||| bitByte k

/-- 07 `RLC A` (R105). -/
def execRlcA (s : State) : Result := rotateTo defaults .rlcA (rotLeft (s.getReg .a)) ((s.getReg .a).getLsbD 7) s

/-- 0F `RRC A` (R106). -/
def execRrcA (s : State) : Result := rotateTo defaults .rrcA (rotRight (s.getReg .a)) ((s.getReg .a).getLsbD 0) s

/-- 17 `RL A` (R107). -/
def execRlA (s : State) : Result := 
  rotateTo defaults .rlA (rotLeftCarry (s.getReg .a) (s.getFlag .c)) ((s.getReg .a).getLsbD 7) s

end Sys2Proof.Machine
end

