-- ==== Sys2Proof/Machine/Stack.lean ====
section
/-! DEFINITION. Stack push and pop (49_push_pop.md R135 to R137). -/

namespace Sys2Proof.Machine

variable {σ : Type}

/-- `PUSH rr` (R135): SP minus 2, then the word at the new SP. -/
def pushPair (P : Params σ) (p : Pair) (s : State σ) : Result σ :=
  let v := s.getPair p
  finish P .push ((s.setSp (s.sp - 2)).writeWord P.port (s.sp - 2) v)

/-- `POP rr` (R136): the word at SP, then SP plus 2. -/
def popPair (P : Params σ) (p : Pair) (s : State σ) : Result σ :=
  let v := s.readWord P.port s.sp
  finish P .pop ((v.2.setSp (s.sp + 2)).setPair p v.1)

/-- `POP AF` (R137) under the parameter `POP_AF_F_MASK`. -/
def popAfWith (P : Params σ) (s : State σ) : Result σ :=
  let v := s.readWord P.port s.sp
  finish P .pop (((v.2.setSp (s.sp + 2)).setReg .a (hiByte v.1)).setF (loByte v.1 &&& P.popAfMask.value))

/-- C5 `PUSH BC` (R135). -/
def execPushBc (s : State) : Result := pushPair defaults .bc s

/-- D5 `PUSH DE` (R135). -/
def execPushDe (s : State) : Result := pushPair defaults .de s

/-- E5 `PUSH HL` (R135). -/
def execPushHl (s : State) : Result := pushPair defaults .hl s

/-- F5 `PUSH AF` (R135). -/
def execPushAf (s : State) : Result := pushPair defaults .af s

/-- C1 `POP BC` (R136). -/
def execPopBc (s : State) : Result := popPair defaults .bc s

/-- D1 `POP DE` (R136). -/
def execPopDe (s : State) : Result := popPair defaults .de s

/-- E1 `POP HL` (R136). -/
def execPopHl (s : State) : Result := popPair defaults .hl s

/-- F1 `POP AF` (R137). -/
def execPopAf (s : State) : Result := popAfWith defaults s

end Sys2Proof.Machine
end

