-- ==== Sys2Proof/Machine/Parametric.lean ====
section
/-! DEFINITION. The machine with the four parameters of 00_scope.md R7 as its argument: any `CCF_MODE`, any
`POP_AF_F_MASK`, any cost table, any memory port. `exec` and `step`, whose types the host fixes, are these
at `defaults`. -/

namespace Sys2Proof.Machine

variable {σ : Type}

/-- The meaning of each row of the opcode map (30_encoding.md R70) under the parameters. -/
def meaningOfForm (P : Params σ) (x : Form) (s : State σ) : Result σ :=
  match x with
  | .nop => finish P .nop s
  | .ldR16Nn p nn => ldR16Nn P p nn s
  | .ldIndBcA => storeAAt P .bc s
  | .ldIndDeA => storeAAt P .de s
  | .ldHliA => storeAThenHl P .ldHliA (s.getPair .hl + 1) s
  | .ldHldA => storeAThenHl P .ldHldA (s.getPair .hl - 1) s
  | .ldAIndBc => loadAAt P .bc s
  | .ldAIndDe => loadAAt P .de s
  | .ldAHli => loadAThenHl P .ldAHli (s.getPair .hl + 1) s
  | .ldAHld => loadAThenHl P .ldAHld (s.getPair .hl - 1) s
  | .incR16 p => incR16 P p s
  | .decR16 p => decR16 P p s
  | .addHlR16 p => addHlR16 P p s
  | .incR r => incLoc P (.reg r) .incR s
  | .incHlInd => incLoc P .hlInd .incHlInd s
  | .decR r => decLoc P (.reg r) .decR s
  | .decHlInd => decLoc P .hlInd .decHlInd s
  | .ldRN r n => ldLocN P (.reg r) .ldRN n s
  | .ldHlN n => ldLocN P .hlInd .ldHlN n s
  | .rlcA => rotateTo P .rlcA (rotLeft (s.getReg .a)) ((s.getReg .a).getLsbD 7) s
  | .rrcA => rotateTo P .rrcA (rotRight (s.getReg .a)) ((s.getReg .a).getLsbD 0) s
  | .rlA => rotateTo P .rlA (rotLeftCarry (s.getReg .a) (s.getFlag .c)) ((s.getReg .a).getLsbD 7) s
  | .jr e => jumpBy P .jr e s
  | .jrCc x e => jumpIf P x e s
  | .scf => finish P .scf (s.setNHC false true)
  | .ccf => ccfWith P s
  | .ldRR dst src => ldLocLoc P (.reg dst) (.reg src) .ldRR s
  | .ldRHlInd dst => ldLocLoc P (.reg dst) .hlInd .ldRHlInd s
  | .ldHlIndR src => ldLocLoc P .hlInd (.reg src) .ldHlIndR s
  | .addAR src => addA P (.reg src) .addAR s
  | .addAHlInd => addA P .hlInd .addAHlInd s
  | .push p => pushPair P p s
  | .pop .af => popAfWith P s
  | .pop p => popPair P p s
  | .unassigned op => raiseUnassigned op s

/-- Run a decoded instruction under the parameters. PC is already past it (30_encoding.md R60). -/
def execWith (P : Params σ) (i : Instr) (s : State σ) : Result σ := meaningOfForm P i.form s

/-- One step under the parameters (R60, 10_state.md R33): fetch through the port, then execute. -/
def stepWith (P : Params σ) (s : State σ) : Result σ :=
  let fetched := (s.withRecord []).fetchInstr P.port
  execWith P fetched.1 fetched.2

end Sys2Proof.Machine
end

