-- ==== Sys2Proof/Machine/Step.lean ====
section
/-! DEFINITION. One step (30_encoding.md R60) at the parameters' defaults and the placing of one instruction where it is fetched. -/

namespace Sys2Proof.Machine

/-- Fetch the instruction at PC and run it (R60, 10_state.md R33), behind the reference port and with the other
defaults of 00_scope.md R7; `stepWith` is the step for any values of the four parameters. -/
def step (s : State) : Host.Outcome State Fault Refusal :=
  let fetched := (s.withRecord []).fetchInstr referencePort
  exec fetched.1 fetched.2

/-- The state with an opcode-table word's bytes stored at PC (log entry 9). -/
def State.withFetchWord (s : State) (nbits w : Nat) : State :=
  s.setMem (s.mem.place s.pc (tableBytes nbits w))

end Sys2Proof.Machine
end

