-- ==== Sys2Proof/Safety.lean ====
section
/-! DEFINITION. What claims about runs are stated in: the reading of an unassigned byte as a fault
(40_nop_unassigned.md R82), and the words in which an instruction's effect and its frame are said. -/

namespace Sys2Proof

open Machine

variable {σ : Type}

/-- R82: "A model should make `Unassigned` a fault outcome of the step function that names the byte and
its address". Read so, an outcome that reports an unassigned byte is a fault; the others stay. -/
def strict (outcome : Result σ) : Result σ :=
  match outcome with
  | .next t =>
    match t.report with
    | .unassigned op addr => .fault (.unassigned op addr)
    | .done _ | .none => .next t
  | .fault x => .fault x
  | .refused x => .refused x

/-- `step` keeps the successor state of R81; this is `step` with the outcome `Unassigned` as a fault, for
claims that take "no step was unassigned" as a premise. -/
def strictStep (s : State) : Result := strict (step s)

/-- Every register a slot can name keeps its value, but for those listed. -/
def RegsKeptBut (rs : List R8) (s t : State σ) : Prop := ∀ r, r ∉ rs → t.getReg r = s.getReg r

/-- The slot registers a pair is a view of (10_state.md R23). -/
def Pair.regs : Pair → List R8
  | .bc => [.b, .c]
  | .de => [.d, .e]
  | .hl => [.h, .l]
  | .af => [.a]

/-- The slot registers a 16-bit operand is a view of (30_encoding.md R65). -/
def R16.regs : R16 → List R8
  | .bc => [.b, .c]
  | .de => [.d, .e]
  | .hl => [.h, .l]
  | .sp => []

/-- The four flags after, and bits 3:0 of F as they were (10_state.md R27). -/
def FlagsAre (s t : State σ) (z n h c : Bool) : Prop :=
  t.getFlag .z = z ∧ t.getFlag .n = n ∧ t.getFlag .h = h ∧ t.getFlag .c = c ∧
    t.f &&& 0x0F#8 = s.f &&& 0x0F#8

/-- Every byte of memory reads as before. -/
def MemKept (s t : State) : Prop := ∀ x, t.mem.read x = s.mem.read x

/-- The byte at `a` reads as `v` and every other byte as before. -/
def MemStored (a : Word) (v : Byte) (s t : State) : Prop :=
  t.mem.read a = v ∧ ∀ x, x ≠ a → t.mem.read x = s.mem.read x

/-- The bytes at `a` and `a + 1` read as the low and the high byte of `v`, every other byte as before. -/
def MemStoredWord (a : Word) (v : Word) (s t : State) : Prop :=
  t.mem.read a = loByte v ∧ t.mem.read (a + 1) = hiByte v ∧
    ∀ x, x ≠ a → x ≠ a + 1 → t.mem.read x = s.mem.read x

/-- PC and SP stay. While an instruction executes PC is past its bytes already (10_state.md R30). -/
def PointersKept (s t : State σ) : Prop := t.pc = s.pc ∧ t.sp = s.sp

/-- What the step returned and the accesses it issued after the fetch (20_memory.md R46). -/
def Issued (s t : State σ) (cost : Nat) (xs : List Access) : Prop :=
  t.report = .done cost ∧ t.accesses = s.accesses ++ xs

/-- Two states with the same registers, PC, SP and memory: the same but for the outputs. -/
def SameCore (s t : State σ) : Prop :=
  (∀ r, s.getReg r = t.getReg r) ∧ s.f = t.f ∧ s.pc = t.pc ∧ s.sp = t.sp ∧ s.mem = t.mem

/-- What a record of accesses makes of the byte at an address that held `v` before it: the byte of the
last write there (20_memory.md R50). -/
def lastWritten (a : Word) (v : Byte) : List Access → Byte
  | [] => v
  | .write x w :: rest => lastWritten a (if x = a then w else v) rest
  | .read _ _ :: rest => lastWritten a v rest

/-- Whether a record of accesses is one that the reference port gives, its bytes being `m` before: every
read returns the byte of the last write to its address, or the byte there before (20_memory.md R50). -/
def RecordFits (m : Word → Byte) : List Access → Prop
  | [] => True
  | .read a v :: rest => v = m a ∧ RecordFits m rest
  | .write a v :: rest => RecordFits (fun x => if a = x then v else m x) rest

/-- Whether a record of accesses, issued in order to a port in the state `m`, is answered as it says and
leaves the port in the state `m'` (20_memory.md R46, R47): the port's own answers and nothing else. -/
def PortAnswers (port : Port σ) (m : σ) : List Access → σ → Prop
  | [], m' => m' = m
  | .read a v :: rest, m' => v = (port.read m a).1 ∧ PortAnswers port (port.read m a).2 rest m'
  | .write a v :: rest, m' => PortAnswers port (port.write m a v) rest m'

/-- The bytes the port answered, in order (20_memory.md R40). -/
def answers : List Access → List Byte
  | [] => []
  | .read _ v :: rest => v :: answers rest
  | .write _ _ :: rest => answers rest

/-- A port that knows no memory: it answers the bytes of a list one after another, whatever the address, then
zeros, and forgets what is written. -/
def scriptedPort : Port (List Byte) where
  read m _ := (m.headD 0, m.tail)
  write m _ _ := m

/-- A state with another port behind it. -/
def Machine.State.behind {τ : Type} (s : State σ) (m : τ) : State τ where
  a := s.a
  f := s.f
  b := s.b
  c := s.c
  d := s.d
  e := s.e
  h := s.h
  l := s.l
  pc := s.pc
  sp := s.sp
  mem := m
  accesses := s.accesses
  report := s.report

/-- One instruction executed `n` times over, without fetching. -/
def execTimes (i : Instr) : Nat → State → Result
  | 0, s => .next s
  | n + 1, s =>
    match exec i s with
    | .next t => execTimes i n t
    | .fault x => .fault x
    | .refused x => .refused x

/-- The bytes at PC, PC + 1 and PC + 2 modulo 65536, which hold the next instruction (R62). -/
def bytesAtPc (s : State) : List Byte :=
  [s.mem.read s.pc, s.mem.read (s.pc + 1), s.mem.read (s.pc + 2)]

/-- The accesses that fetch `n` bytes from PC on, in order. -/
def fetchAccesses (s : State) (n : Nat) : List Access :=
  [.read s.pc (s.mem.read s.pc), .read (s.pc + 1) (s.mem.read (s.pc + 1)),
    .read (s.pc + 2) (s.mem.read (s.pc + 2))].take n

/-- The state in which an instruction of `n` bytes at PC executes: PC past it, its fetches recorded, nothing
else changed (30_encoding.md R60). -/
def fetchedState (s : State) (n : Nat) : State :=
  (s.setPc (s.pc + BitVec.ofNat 16 n)).withRecord (fetchAccesses s n)

/-- `bytes` is the encoding of `i`, and wherever these bytes stand at PC a step fetches them all, and them
alone, and executes `i`. -/
def FetchedAs (i : Instr) (bytes : List Byte) : Prop :=
  encode i = bytes ∧ ∀ s, (bytesAtPc s).take bytes.length = bytes →
    step s = exec i (fetchedState s bytes.length)

end Sys2Proof
end

