-- ==== Sys2Proof/Certificates/Slice0/Obligations.lean ====
section
/-! DEFINITION. The statements for the provers, each from the rules of spec/ its docstring cites. A
statement about an instruction speaks of every constructor of `Instr` with the form it names (the rows of
30_encoding.md R70), in every state; `exec` runs with PC already past the instruction (R60). Of
`exec` and `step` costs are those of the default `CYC` (70_reset_and_hazards.md R170, D11, log entry 8) and
memory is the reference port's (20_memory.md R47, D15, log entry 4); `execWith` and `stepWith` take the
parameters of 00_scope.md R7 as an argument. Opcode bytes are those of R70 (D2, log entry 13). -/

open Sys2Proof Sys2Proof.Machine

/-! ### Reset -/

/-- 10_state.md R37, 70_reset_and_hazards.md R160: a reset, in any state and behind any port, leaves all ten
registers zero (so every flag and every pair), the port untouched and no access issued, and the first step
after it fetches its opcode from 0x0000. `State.reset` is such a state. -/
def Obligations.ResetZeroesEveryRegister : Prop :=
  (∀ (σ : Type) (P : Params σ) (s : State σ), let t := s.applyReset
    (∀ r, t.getReg r = 0) ∧ t.f = 0 ∧ t.pc = 0 ∧ t.sp = 0 ∧ (∀ x, t.getFlag x = false) ∧
      (∀ p, t.getPair p = 0) ∧ t.mem = s.mem ∧ t.accesses = [] ∧
      ∃ u, stepWith P t = .next u ∧
        u.accesses.head? = some (.read 0 (P.port.read s.mem 0).1)) ∧
  (∀ s : State, ∃ u, step s.applyReset = .next u ∧
    u.accesses.head? = some (.read 0 (s.mem.read 0))) ∧
  State.reset.applyReset = State.reset

/-- The invariants that the steps keep hold after reset (R28, R37; the memory's canonical form is the
model's own). -/
def Obligations.InvariantsHoldAtReset : Prop :=
  State.reset.mem.wf ∧ State.reset.f &&& 0x0F#8 = 0 ∧
    RecordFits State.reset.mem.read State.reset.accesses

/-! ### Encoding (30_encoding.md) -/

/-- Words written out bit by bit from the patterns of R70, one or more of each family. -/
def Obligations.SpecWordsDecodeAsTheGridSays : Prop :=
  decode [0b00000000#8] = .ok .nop [] ∧
  decode [0b00000001#8, 0x34#8, 0x12#8] = .ok (.ldBcNn 0x1234#16) [] ∧
  decode [0b00110110#8, 0xAB#8] = .ok (.ldIndHlN 0xAB#8) [] ∧
  decode [0b00111100#8] = .ok .incA [] ∧
  decode [0b00110101#8] = .ok .decIndHl [] ∧
  decode [0b00111011#8] = .ok .decSp [] ∧
  decode [0b00101001#8] = .ok .addHlHl [] ∧
  decode [0b10000110#8] = .ok .addAIndHl [] ∧
  decode [0b00010111#8] = .ok .rlA [] ∧
  decode [0b00111010#8] = .ok .ldAHld [] ∧
  decode [0b00011010#8] = .ok .ldAIndDe [] ∧
  decode [0b00111000#8, 0x02#8] = .ok (.jrC 0x02#8) [] ∧
  decode [0b01111100#8] = .ok .ldAH [] ∧
  decode [0b01110101#8] = .ok .ldIndHlL [] ∧
  decode [0b00111111#8] = .ok .ccf [] ∧
  decode [0b11110101#8] = .ok .pushAf [] ∧
  decode [0b11010001#8] = .ok .popDe [] ∧
  decode [0b01110110#8] = .ok (.unassigned 0x76#8) []

/-- Decoding what the encoder wrote gives the instruction back with every operand, and leaves the bytes
after it alone. -/
def Obligations.DecodeGivesBackWhatWasEncoded : Prop :=
  ∀ (i : Instr) (rest : List Byte), i.wellFormed = true → decode (encode i ++ rest) = .ok i rest

/-- The other direction: what decodes is well-formed and its encoding is the bytes it was read from, so
no two byte strings decode alike. -/
def Obligations.EncodingIsTheBytesDecoded : Prop :=
  ∀ (bytes rest : List Byte) (i : Instr), decode bytes = .ok i rest →
    i.wellFormed = true ∧ encode i ++ rest = bytes

/-- R61, R75: every first byte has exactly one meaning; it carries no instruction exactly outside the
assigned set, which has 138 of the 256 values. -/
def Obligations.DecodeIsTotalAndSplitsTheTwoSets : Prop :=
  (∀ (op n1 n2 : Byte) (rest : List Byte), ∃ i more,
    decode (op :: n1 :: n2 :: rest) = .ok i more ∧ i.opcode = op ∧
      (i = .unassigned op ↔ assigned op = false)) ∧
  (List.range 256).countP (fun v => assigned (BitVec.ofNat 8 v)) = 138

/-- R77: the first byte alone fixes how many bytes an instruction takes; 0xCB takes itself alone. -/
def Obligations.FirstByteAloneFixesTheLength : Prop :=
  (∀ (op n1 n2 : Byte) (rest : List Byte), ∃ i,
    decode (op :: n1 :: n2 :: rest) = .ok i
      (if op ∈ [0x01#8, 0x11#8, 0x21#8, 0x31#8] then rest
        else if op ∈ [0x06#8, 0x0E#8, 0x16#8, 0x1E#8, 0x26#8, 0x2E#8, 0x36#8, 0x3E#8, 0x18#8, 0x20#8,
          0x28#8, 0x30#8, 0x38#8] then n2 :: rest
        else n1 :: n2 :: rest)) ∧
  ∀ rest, decode (0xCB#8 :: rest) = .ok (.unassigned 0xCB#8) rest

/-- R64: the slot order, that slot 6 is the cell at HL and no register, in which field each family has
its slot, and what `get` and `set` do to a register and to the cell. -/
def Obligations.SlotsNameRegistersAndTheCellAtHl : Prop :=
  (decodeR8 0 = .reg .b ∧ decodeR8 1 = .reg .c ∧ decodeR8 2 = .reg .d ∧ decodeR8 3 = .reg .e ∧
    decodeR8 4 = .reg .h ∧ decodeR8 5 = .reg .l ∧ decodeR8 6 = .hlInd ∧ decodeR8 7 = .reg .a) ∧
  (∀ (i : Instr) (r q : R8) (n : Byte),
    (i.form = .incR r ∨ i.form = .decR r ∨ i.form = .ldRN r n ∨ i.form = .ldRR r q ∨
      i.form = .ldRHlInd r → decodeR8 (fieldD i.opcode) = .reg r) ∧
    (i.form = .incHlInd ∨ i.form = .decHlInd ∨ i.form = .ldHlN n ∨ i.form = .ldHlIndR r →
      decodeR8 (fieldD i.opcode) = .hlInd) ∧
    (i.form = .ldRR q r ∨ i.form = .ldHlIndR r ∨ i.form = .addAR r →
      decodeR8 (fieldS i.opcode) = .reg r) ∧
    (i.form = .ldRHlInd r ∨ i.form = .addAHlInd → decodeR8 (fieldS i.opcode) = .hlInd)) ∧
  ∀ (σ : Type) (port : Port σ) (s : State σ) (r : R8) (v : Byte),
    s.getLoc port (.reg r) = (s.getReg r, s) ∧ s.setLoc port (.reg r) v = s.setReg r v ∧
      s.getLoc port .hlInd = s.readByte port (s.getPair .hl) ∧
      s.setLoc port .hlInd v = s.writeByte port (s.getPair .hl) v

/-- R65, R66, R67: the orders of the three 2-bit selectors, and that op[5:4] (for the conditions
op[4:3]) of each instruction selects its operand. -/
def Obligations.TwoBitFieldsSelectPairsAndConditions : Prop :=
  ([decodeR16 0, decodeR16 1, decodeR16 2, decodeR16 3] = [.bc, .de, .hl, .sp]) ∧
  ([decodePair 0, decodePair 1, decodePair 2, decodePair 3] = [.bc, .de, .hl, .af]) ∧
  ([decodeCond 0, decodeCond 1, decodeCond 2, decodeCond 3] = [.nz, .z, .nc, .c]) ∧
  ∀ (i : Instr) (p : R16) (q : Pair) (x : Cond) (nn : Word) (e : Byte),
    (i.form = .ldR16Nn p nn ∨ i.form = .incR16 p ∨ i.form = .decR16 p ∨ i.form = .addHlR16 p →
      decodeR16 (fieldPP i.opcode) = p) ∧
    (i.form = .push q ∨ i.form = .pop q →
      decodePair (fieldPP i.opcode) = q ∧ fieldQ i.opcode = false) ∧
    (i.form = .jrCc x e → decodeCond (fieldCC i.opcode) = x ∧ i.opcode.getLsbD 5 = true)

/-! ### Registers, flags, memory accesses -/

/-- 10_state.md R23: a pair read is its two registers, high one first; a pair write writes those two
bytes and nothing else; a write then a read gives the value back, for every pair and every value. -/
def Obligations.PairsAreViewsOfTheirRegisters : Prop :=
  ∀ (s : State) (v : Word),
    (s.getPair .bc = s.b ++ s.c ∧ s.getPair .de = s.d ++ s.e ∧ s.getPair .hl = s.h ++ s.l ∧
      s.getPair .af = s.a ++ s.f) ∧
    (∀ p, (s.setPair p v).getPair p = v ∧ (p ≠ .af → (s.setPair p v).f = s.f) ∧
      RegsKeptBut (Pair.regs p) s (s.setPair p v) ∧
      (s.setPair p v).pc = s.pc ∧ (s.setPair p v).sp = s.sp ∧ (s.setPair p v).mem = s.mem) ∧
    ((s.setPair .bc v).b = v.extractLsb' 8 8 ∧ (s.setPair .bc v).c = v.extractLsb' 0 8) ∧
    ((s.setPair .de v).d = v.extractLsb' 8 8 ∧ (s.setPair .de v).e = v.extractLsb' 0 8) ∧
    ((s.setPair .hl v).h = v.extractLsb' 8 8 ∧ (s.setPair .hl v).l = v.extractLsb' 0 8) ∧
    ((s.setPair .af v).a = v.extractLsb' 8 8 ∧ (s.setPair .af v).f = v.extractLsb' 0 8)

/-- 10_state.md R26, R27: the flags are bits 7 to 4 of F; setting one ors its bit in, clearing one clears
it, and no other bit of F, no register and no memory byte changes. -/
def Obligations.FlagWritesTouchTheirBitOnly : Prop :=
  ∀ (s : State) (x : Flag) (v : Bool),
    (s.getFlag .z = s.f.getLsbD 7 ∧ s.getFlag .n = s.f.getLsbD 6 ∧ s.getFlag .h = s.f.getLsbD 5 ∧
      s.getFlag .c = s.f.getLsbD 4) ∧
    ((s.setFlag .z true).f = s.f ||| 0x80#8 ∧ (s.setFlag .z false).f = s.f &&& 0x7F#8 ∧
      (s.setFlag .n true).f = s.f ||| 0x40#8 ∧ (s.setFlag .n false).f = s.f &&& 0xBF#8 ∧
      (s.setFlag .h true).f = s.f ||| 0x20#8 ∧ (s.setFlag .h false).f = s.f &&& 0xDF#8 ∧
      (s.setFlag .c true).f = s.f ||| 0x10#8 ∧ (s.setFlag .c false).f = s.f &&& 0xEF#8) ∧
    (∀ k, (s.setFlag x v).f.getLsbD k = if k = x.bit then v else s.f.getLsbD k) ∧
    RegsKeptBut [] s (s.setFlag x v) ∧ PointersKept s (s.setFlag x v) ∧
    (s.setFlag x v).mem = s.mem

/-- 10_state.md R39: the five formulas, with the readings the rule gives beside them. -/
def Obligations.FlagFormulasAreCarriesAndBorrows : Prop :=
  (∀ a b : Byte,
    halfAdd8 a b = decide (a.toNat % 16 + b.toNat % 16 ≥ 16) ∧
    halfAdd8 a b = (a ^^^ b ^^^ (a + b)).getLsbD 4 ∧
    halfSub8 a b = decide (a.toNat % 16 < b.toNat % 16) ∧
    halfSub8 a b = decide (a.toNat % 16 + (16 - b.toNat % 16) < 16) ∧
    carry8 a b = decide (a.toNat + b.toNat > 0xFF)) ∧
  ∀ h r : Word,
    halfAdd16 h r = decide (h.toNat % 4096 + r.toNat % 4096 ≥ 4096) ∧
    halfAdd16 h r = (h ^^^ r ^^^ (h + r)).getLsbD 12 ∧
    carry16 h r = decide (h.toNat + r.toNat > 0xFFFF)

/-- 20_memory.md R42, R43, R48: on any port a word access is two byte accesses, low byte first, the second
at the next address modulo 65536; on the reference port (R44) a word written reads back, as a word and
byte by byte. -/
def Obligations.WordAccessesAreTwoByteAccessesLowFirst : Prop :=
  (∀ (σ : Type) (port : Port σ) (s : State σ) (a v : Word),
    let lo := port.read s.mem a
    let hi := port.read lo.2 (a + 1)
    (s.readWord port a).1 = hi.1 ++ lo.1 ∧ (s.readWord port a).2.mem = hi.2 ∧
    (s.readWord port a).2.accesses = s.accesses ++ [.read a lo.1, .read (a + 1) hi.1] ∧
    (s.writeWord port a v).mem =
      port.write (port.write s.mem a (v.extractLsb' 0 8)) (a + 1) (v.extractLsb' 8 8) ∧
    (s.writeWord port a v).accesses = s.accesses ++
      [.write a (v.extractLsb' 0 8), .write (a + 1) (v.extractLsb' 8 8)]) ∧
  (∀ (s : State) (a v : Word), let t := s.writeWord referencePort a v
    t.mem.read a = v.extractLsb' 0 8 ∧ t.mem.read (a + 1) = v.extractLsb' 8 8 ∧
      (t.readWord referencePort a).1 = v ∧ (t.readWord referencePort a).2.mem = t.mem) ∧
  0xFFFF#16 + 1 = 0

/-! ### The step -/

/-- 30_encoding.md R60, 00_scope.md R12: when the bytes at PC decode to an instruction, a step is `exec`
of it in the state whose PC is past its bytes and whose record holds the fetches, opcode first and in
ascending order; nothing else changes before `exec`. -/
def Obligations.StepRunsTheDecodedInstruction : Prop :=
  ∀ (s : State) (i : Instr) (rest : List Byte), decode (bytesAtPc s) = .ok i rest →
    i.wellFormed = true ∧ step s = exec i (fetchedState s i.length)

/-- 60_exceptions.md R140, R142: under all parameters every step has an outcome that goes on; it is
`Unassigned` exactly when the opcode byte is unassigned, naming that byte and its address, whatever the
registers, operands and memory hold. Every instruction completes in every state. -/
def Obligations.EveryStepAndInstructionCompletes : Prop :=
  (∀ s, ∃ t, step s = .next t ∧
    ((∃ cost, t.report = .done cost) ↔ assigned (s.mem.read s.pc) = true) ∧
    (assigned (s.mem.read s.pc) = false → t.report = .unassigned (s.mem.read s.pc) s.pc)) ∧
  (∀ (i : Instr) (s : State), ∃ t, exec i s = .next t) ∧
  (∀ (σ : Type) (P : Params σ) (s : State σ), let op := (P.port.read s.mem s.pc).1
    ∃ t, stepWith P s = .next t ∧
      ((∃ cost, t.report = .done cost) ↔ assigned op = true) ∧
      (assigned op = false → t.report = .unassigned op s.pc)) ∧
  ∀ (σ : Type) (P : Params σ) (i : Instr) (s : State σ), ∃ t, execWith P i s = .next t

/-- 70_reset_and_hazards.md R171, 10_state.md R34: under every table of costs that R171 allows, the cost
reported is 0 exactly for an unassigned opcode and else at least 4; the default table is such a table, and
under it the cost is one of 4, 8, 12, 16. -/
def Obligations.CostIsZeroExactlyForUnassigned : Prop :=
  (∀ (σ : Type) (P : Params σ) (s t : State σ), CycOk P.cyc → stepWith P s = .next t →
    ∃ cost, t.report.cost = some cost ∧
      (cost = 0 ↔ assigned (P.port.read s.mem s.pc).1 = false) ∧ (cost ≠ 0 → 4 ≤ cost)) ∧
  CycOk defaults.cyc ∧
  ∀ s t, step s = .next t →
    ∃ cost, t.report.cost = some cost ∧ (cost = 0 ↔ assigned (s.mem.read s.pc) = false) ∧
      (cost ≠ 0 → cost ∈ [4, 8, 12, 16])

/-- 40_nop_unassigned.md R82: read as a fault, the step stops exactly at an unassigned opcode, naming the
byte and its address, and is the plain step everywhere else. -/
def Obligations.StrictStepFaultsExactlyAtUnassigned : Prop :=
  ∀ s, (assigned (s.mem.read s.pc) = false →
      strictStep s = .fault (.unassigned (s.mem.read s.pc) s.pc)) ∧
    (assigned (s.mem.read s.pc) = true → strictStep s = step s ∧ ∃ t, strictStep s = .next t)

/-- 40_nop_unassigned.md R81: a step at any of the 118 bytes moves PC past that one byte, issues the
opcode fetch alone and changes nothing else, at cost 0, under all parameters. `Instr.unassigned` completes so in every state. -/
def Obligations.UnassignedByteOnlyAdvancesPc : Prop :=
  (∀ s, assigned (s.mem.read s.pc) = false → ∃ t, step s = .next t ∧
    t.pc = s.pc + 1 ∧ RegsKeptBut [] s t ∧ t.f = s.f ∧ t.sp = s.sp ∧ t.mem = s.mem ∧
    t.accesses = [.read s.pc (s.mem.read s.pc)] ∧
    t.report = .unassigned (s.mem.read s.pc) s.pc ∧ t.report.cost = some 0) ∧
  (∀ (σ : Type) (P : Params σ) (s : State σ), let op := P.port.read s.mem s.pc
    assigned op.1 = false → ∃ t, stepWith P s = .next t ∧
      t.pc = s.pc + 1 ∧ RegsKeptBut [] s t ∧ t.f = s.f ∧ t.sp = s.sp ∧ t.mem = op.2 ∧
      t.accesses = [.read s.pc op.1] ∧ t.report = .unassigned op.1 s.pc ∧ t.report.cost = some 0) ∧
  ∀ (op : Byte) (s : State), ∃ t, exec (.unassigned op) s = .next t ∧
    RegsKeptBut [] s t ∧ t.f = s.f ∧ PointersKept s t ∧ MemKept s t ∧ t.accesses = s.accesses ∧
    t.report = .unassigned op (s.pc - 1)

/-- The memory's canonical form is kept by every step, from every state that has it. -/
def Obligations.EveryStepKeepsMemoryCanonical : Prop :=
  ∀ s t, s.mem.wf → step s = .next t → t.mem.wf

/-- 10_state.md R28: bits 3:0 of F stay zero under every step with `POP_AF_F_MASK` at its default, whatever
the other parameters are. -/
def Obligations.LowBitsOfFStayZero : Prop :=
  (∀ s t, s.f &&& 0x0F#8 = 0 → step s = .next t → t.f &&& 0x0F#8 = 0) ∧
  ∀ (σ : Type) (P : Params σ) (s t : State σ), P.popAfMask = .keepHigh → s.f &&& 0x0F#8 = 0 →
    stepWith P s = .next t → t.f &&& 0x0F#8 = 0

/-- 10_state.md R20, R32: nothing is carried from one step to the next but the ten registers and what is
behind the port: two states that agree on those take the same step to the same state, whatever was
reported and recorded before, under all parameters. -/
def Obligations.StepDependsOnRegistersAndMemoryOnly : Prop :=
  (∀ s t : State, SameCore s t → step s = step t) ∧
  ∀ (σ : Type) (P : Params σ) (s t : State σ), SameCore s t → stepWith P s = stepWith P t

/-- 10_state.md R30, 46_jr.md R122: a step leaves PC at the byte after the instruction, modulo 65536, and
only `JR e` and a `JR cc,e` whose condition holds add their displacement to that. -/
def Obligations.OnlyRelativeJumpsMovePcElsewhere : Prop :=
  ∀ (s t : State) (i : Instr) (rest : List Byte), decode (bytesAtPc s) = .ok i rest →
    step s = .next t →
    t.pc = s.pc + BitVec.ofNat 16 i.length +
      match i.form with
      | .jr e => e.signExtend 16
      | .jrCc x e => if s.condHolds x then e.signExtend 16 else 0
      | _ => 0

/-- 10_state.md R31: SP is written by `LD SP,nn`, `INC SP`, `DEC SP`, `PUSH` (minus 2) and `POP` (plus 2),
modulo 65536, and by nothing else. -/
def Obligations.OnlyFiveInstructionsWriteSp : Prop :=
  ∀ (i : Instr) (s t : State), exec i s = .next t →
    t.sp = match i.form with
      | .ldR16Nn .sp nn => nn
      | .incR16 .sp => s.sp + 1
      | .decR16 .sp => s.sp - 1
      | .push _ => s.sp - 2
      | .pop _ => s.sp + 2
      | _ => s.sp

/-- 10_state.md R29, the columns of what is not written: instructions outside the table keep all of F,
8-bit INC and DEC keep Carry, `ADD HL`, `SCF` and `CCF` keep Zero, and bits 3:0 of F change in `POP AF`
alone. -/
def Obligations.FlagsOutsideTheTableKeepTheirValue : Prop :=
  ∀ (i : Instr) (s t : State), exec i s = .next t →
    (i.form ≠ .pop .af → t.f &&& 0x0F#8 = s.f &&& 0x0F#8) ∧
    match i.form with
    | .incR _ | .incHlInd | .decR _ | .decHlInd => t.getFlag .c = s.getFlag .c
    | .addHlR16 _ | .scf | .ccf => t.getFlag .z = s.getFlag .z
    | .addAR _ | .addAHlInd | .rlcA | .rrcA | .rlA | .pop .af => True
    | _ => t.f = s.f

/-- 10_state.md R29: nothing reads Subtract or Half-carry except `PUSH AF` (0xF5): two states that differ
in those two flags and in bits 3:0 of F alone step to states that again differ in nothing else. -/
def Obligations.SubtractAndHalfCarryReachPushAfOnly : Prop :=
  ∀ s s' : State, (∀ r, s.getReg r = s'.getReg r) → s.pc = s'.pc → s.sp = s'.sp → s.mem = s'.mem →
    s.getFlag .z = s'.getFlag .z → s.getFlag .c = s'.getFlag .c → s.mem.read s.pc ≠ 0xF5#8 →
    ∃ t t', step s = .next t ∧ step s' = .next t' ∧
      (∀ r, t.getReg r = t'.getReg r) ∧ t.pc = t'.pc ∧ t.sp = t'.sp ∧ t.mem = t'.mem ∧
      t.getFlag .z = t'.getFlag .z ∧ t.getFlag .c = t'.getFlag .c ∧
      t.accesses = t'.accesses ∧ t.report = t'.report

/-- 20_memory.md R46, R47, R50: on any port, the accesses a step records, issued to the port in that order,
are answered as recorded and leave the port as the step leaves it: the step touches the port through them
alone. On the reference port the record accounts for memory: every read in it returned the byte of the most
recent write to its address, in the record or before the step, and after the step every address holds the
byte last written there. -/
def Obligations.RecordedAccessesAccountForMemory : Prop :=
  (∀ (σ : Type) (P : Params σ) (s t : State σ), stepWith P s = .next t →
    PortAnswers P.port s.mem t.accesses t.mem) ∧
  ∀ s t, step s = .next t →
    RecordFits s.mem.read t.accesses ∧
      ∀ x, t.mem.read x = lastWritten x (s.mem.read x) t.accesses

/-- 20_memory.md R47: "the core issues exactly the accesses of rule R46 whatever the port does with them". A
step is determined by the registers and the bytes the port answers: a port that knows no memory and answers
just those bytes gives the same registers, accesses and outcome. -/
def Obligations.StepIsDeterminedByRegistersAndAnswers : Prop :=
  ∀ (σ : Type) (P : Params σ) (s t : State σ), stepWith P s = .next t →
    stepWith { P with port := scriptedPort } (s.behind (answers t.accesses)) = .next (t.behind [])

/-- 20_memory.md R53: a store is seen by the next fetch, with no delay: the step after `step s` fetches
the byte that the accesses of `step s` last wrote at its PC, or the old one if none did. -/
def Obligations.StoreIsSeenByTheNextFetch : Prop :=
  ∀ s t u, step s = .next t → step t = .next u →
    u.accesses.head? = some (.read t.pc (lastWritten t.pc (s.mem.read t.pc) t.accesses))

/-! ### Sequences (95_test_vectors.md 2.11) -/

/-- `PUSH rr` then `POP rr` restores the pair and SP, for BC, DE, HL from every state, for AF where bits
3:0 of F are zero (49_push_pop.md R135 to R137). -/
def Obligations.PushThenPopRestores : Prop :=
  ∀ (push pop : Instr) (p : Pair) (s : State), push.form = .push p → pop.form = .pop p →
    (p = .af → s.f &&& 0x0F#8 = 0) →
    ∃ t u, exec push s = .next t ∧ exec pop t = .next u ∧
      (∀ r, u.getReg r = s.getReg r) ∧ u.f = s.f ∧ u.sp = s.sp

/-- Nine `RL A` restore A and Carry, eight `RLC A` restore A, and `RLC A` then `RRC A` restores A
(44_rotate_a.md R105 to R107). -/
def Obligations.RotatesComeBack : Prop :=
  ∀ s : State,
    (∃ t, execTimes .rlA 9 s = .next t ∧ t.getReg .a = s.getReg .a ∧ t.getFlag .c = s.getFlag .c) ∧
    (∃ t, execTimes .rlcA 8 s = .next t ∧ t.getReg .a = s.getReg .a) ∧
    ∃ t u, exec .rlcA s = .next t ∧ exec .rrcA t = .next u ∧ u.getReg .a = s.getReg .a

/-! ### NOP (40_nop_unassigned.md) -/

/-- R80. -/
def Obligations.NopChangesNothing : Prop :=
  FetchedAs .nop [0b00000000#8] ∧
  ∀ s, ∃ t, exec .nop s = .next t ∧ RegsKeptBut [] s t ∧ t.f = s.f ∧ PointersKept s t ∧
    MemKept s t ∧ Issued s t 4 []

/-! ### Immediate loads (41_immediate_loads.md) -/

/-- R85. -/
def Obligations.LoadWordImmediateWritesThePair : Prop :=
  ∀ (i : Instr) (p : R16) (nn : Word) (s : State), i.form = .ldR16Nn p nn →
    FetchedAs i [0b00#2 ++ p.code ++ 0b0001#4, nn.extractLsb' 0 8, nn.extractLsb' 8 8] ∧
    ∃ t, exec i s = .next t ∧ t.getR16 p = nn ∧ RegsKeptBut (R16.regs p) s t ∧
      (p ≠ .sp → t.sp = s.sp) ∧ t.f = s.f ∧ t.pc = s.pc ∧ MemKept s t ∧ Issued s t 12 []

/-- R86. -/
def Obligations.LoadByteImmediateWritesTheRegister : Prop :=
  ∀ (i : Instr) (r : R8) (n : Byte) (s : State), i.form = .ldRN r n →
    FetchedAs i [0b00#2 ++ r.slot ++ 0b110#3, n] ∧
    ∃ t, exec i s = .next t ∧ t.getReg r = n ∧ RegsKeptBut [r] s t ∧ t.f = s.f ∧
      PointersKept s t ∧ MemKept s t ∧ Issued s t 8 []

/-- R87. -/
def Obligations.StoreByteImmediateWritesTheCell : Prop :=
  ∀ (i : Instr) (n : Byte) (s : State), i.form = .ldHlN n →
    FetchedAs i [0b00110110#8, n] ∧
    ∃ t, exec i s = .next t ∧ MemStored (s.getPair .hl) n s t ∧ RegsKeptBut [] s t ∧ t.f = s.f ∧
      PointersKept s t ∧ Issued s t 12 [.write (s.getPair .hl) n]

/-! ### Increment and decrement (42_inc_dec.md) -/

/-- R90. -/
def Obligations.IncrementRegister : Prop :=
  ∀ (i : Instr) (r : R8) (s : State), i.form = .incR r →
    let v := s.getReg r
    FetchedAs i [0b00#2 ++ r.slot ++ 0b100#3] ∧
    ∃ t, exec i s = .next t ∧ t.getReg r = v + 1 ∧
      FlagsAre s t (v + 1 == 0) false (decide (v &&& 0x0F#8 = 0x0F#8)) (s.getFlag .c) ∧
      RegsKeptBut [r] s t ∧ PointersKept s t ∧ MemKept s t ∧ Issued s t 4 []

/-- R91. -/
def Obligations.IncrementCellAtHl : Prop :=
  ∀ s : State,
    let a := s.getPair .hl
    let v := s.mem.read a
    FetchedAs .incIndHl [0b00110100#8] ∧
    ∃ t, exec .incIndHl s = .next t ∧ MemStored a (v + 1) s t ∧
      FlagsAre s t (v + 1 == 0) false (decide (v &&& 0x0F#8 = 0x0F#8)) (s.getFlag .c) ∧
      RegsKeptBut [] s t ∧ PointersKept s t ∧ Issued s t 12 [.read a v, .write a (v + 1)]

/-- R92. -/
def Obligations.DecrementRegister : Prop :=
  ∀ (i : Instr) (r : R8) (s : State), i.form = .decR r →
    let v := s.getReg r
    FetchedAs i [0b00#2 ++ r.slot ++ 0b101#3] ∧
    ∃ t, exec i s = .next t ∧ t.getReg r = v - 1 ∧
      FlagsAre s t (v - 1 == 0) true (decide (v &&& 0x0F#8 = 0)) (s.getFlag .c) ∧
      RegsKeptBut [r] s t ∧ PointersKept s t ∧ MemKept s t ∧ Issued s t 4 []

/-- R93. -/
def Obligations.DecrementCellAtHl : Prop :=
  ∀ s : State,
    let a := s.getPair .hl
    let v := s.mem.read a
    FetchedAs .decIndHl [0b00110101#8] ∧
    ∃ t, exec .decIndHl s = .next t ∧ MemStored a (v - 1) s t ∧
      FlagsAre s t (v - 1 == 0) true (decide (v &&& 0x0F#8 = 0)) (s.getFlag .c) ∧
      RegsKeptBut [] s t ∧ PointersKept s t ∧ Issued s t 12 [.read a v, .write a (v - 1)]

/-- R94. -/
def Obligations.IncrementWord : Prop :=
  ∀ (i : Instr) (p : R16) (s : State), i.form = .incR16 p →
    FetchedAs i [0b00#2 ++ p.code ++ 0b0011#4] ∧
    ∃ t, exec i s = .next t ∧ t.getR16 p = s.getR16 p + 1 ∧ RegsKeptBut (R16.regs p) s t ∧
      (p ≠ .sp → t.sp = s.sp) ∧ t.f = s.f ∧ t.pc = s.pc ∧ MemKept s t ∧ Issued s t 8 []

/-- R95. -/
def Obligations.DecrementWord : Prop :=
  ∀ (i : Instr) (p : R16) (s : State), i.form = .decR16 p →
    FetchedAs i [0b00#2 ++ p.code ++ 0b1011#4] ∧
    ∃ t, exec i s = .next t ∧ t.getR16 p = s.getR16 p - 1 ∧ RegsKeptBut (R16.regs p) s t ∧
      (p ≠ .sp → t.sp = s.sp) ∧ t.f = s.f ∧ t.pc = s.pc ∧ MemKept s t ∧ Issued s t 8 []

/-! ### Addition (43_add.md) -/

/-- R100. -/
def Obligations.AddWordToHl : Prop :=
  ∀ (i : Instr) (p : R16) (s : State), i.form = .addHlR16 p →
    let h := s.getPair .hl
    let r := s.getR16 p
    FetchedAs i [0b00#2 ++ p.code ++ 0b1001#4] ∧
    ∃ t, exec i s = .next t ∧ t.getPair .hl = h + r ∧
      FlagsAre s t (s.getFlag .z) false (decide (h.toNat % 4096 + r.toNat % 4096 ≥ 4096))
        (decide (h.toNat + r.toNat > 0xFFFF)) ∧
      RegsKeptBut [.h, .l] s t ∧ PointersKept s t ∧ MemKept s t ∧ Issued s t 8 []

/-- R101. -/
def Obligations.AddRegisterToA : Prop :=
  ∀ (i : Instr) (r : R8) (s : State), i.form = .addAR r →
    let a := s.getReg .a
    let b := s.getReg r
    FetchedAs i [0b10000#5 ++ r.slot] ∧
    ∃ t, exec i s = .next t ∧ (t.getReg .a).toNat = (a.toNat + b.toNat) % 256 ∧
      FlagsAre s t (decide ((a.toNat + b.toNat) % 256 = 0)) false
        (decide (a.toNat % 16 + b.toNat % 16 ≥ 16)) (decide (a.toNat + b.toNat > 255)) ∧
      RegsKeptBut [.a] s t ∧ PointersKept s t ∧ MemKept s t ∧ Issued s t 4 []

/-- R102. -/
def Obligations.AddCellAtHlToA : Prop :=
  ∀ s : State,
    let a := s.getReg .a
    let b := s.mem.read (s.getPair .hl)
    FetchedAs .addAIndHl [0b10000110#8] ∧
    ∃ t, exec .addAIndHl s = .next t ∧ (t.getReg .a).toNat = (a.toNat + b.toNat) % 256 ∧
      FlagsAre s t (decide ((a.toNat + b.toNat) % 256 = 0)) false
        (decide (a.toNat % 16 + b.toNat % 16 ≥ 16)) (decide (a.toNat + b.toNat > 255)) ∧
      RegsKeptBut [.a] s t ∧ PointersKept s t ∧ MemKept s t ∧
      Issued s t 8 [.read (s.getPair .hl) b]

/-! ### Rotates of A (44_rotate_a.md) -/

/-- R105. -/
def Obligations.RotateALeftCircular : Prop :=
  ∀ s : State,
    let a := s.getReg .a
    let w : Byte := a.extractLsb' 0 7 ++ a.extractLsb' 7 1
    FetchedAs .rlcA [0b00000111#8] ∧
    ∃ t, exec .rlcA s = .next t ∧ t.getReg .a = w ∧
      FlagsAre s t (w == 0) false false (a.getLsbD 7) ∧
      RegsKeptBut [.a] s t ∧ PointersKept s t ∧ MemKept s t ∧ Issued s t 4 []

/-- R106. -/
def Obligations.RotateARightCircular : Prop :=
  ∀ s : State,
    let a := s.getReg .a
    let w : Byte := a.extractLsb' 0 1 ++ a.extractLsb' 1 7
    FetchedAs .rrcA [0b00001111#8] ∧
    ∃ t, exec .rrcA s = .next t ∧ t.getReg .a = w ∧
      FlagsAre s t (w == 0) false false (a.getLsbD 0) ∧
      RegsKeptBut [.a] s t ∧ PointersKept s t ∧ MemKept s t ∧ Issued s t 4 []

/-- R107. -/
def Obligations.RotateALeftThroughCarry : Prop :=
  ∀ s : State,
    let a := s.getReg .a
    let w : Byte := a.extractLsb' 0 7 ++ BitVec.ofBool (s.getFlag .c)
    FetchedAs .rlA [0b00010111#8] ∧
    ∃ t, exec .rlA s = .next t ∧ t.getReg .a = w ∧
      FlagsAre s t (w == 0) false false (a.getLsbD 7) ∧
      RegsKeptBut [.a] s t ∧ PointersKept s t ∧ MemKept s t ∧ Issued s t 4 []

/-! ### Indirect loads and stores of A (45_indirect_a.md) -/

/-- R110, R112: the address is the old HL, which then moves by plus or minus 1 modulo 65536. -/
def Obligations.StoreAAtHlThenMoveHl : Prop :=
  FetchedAs .ldHliA [0b00100010#8] ∧ FetchedAs .ldHldA [0b00110010#8] ∧
  ∀ s : State, ∀ x ∈ [(Instr.ldHliA, s.getPair .hl + 1), (Instr.ldHldA, s.getPair .hl - 1)],
    ∃ t, exec x.1 s = .next t ∧ MemStored (s.getPair .hl) (s.getReg .a) s t ∧
      t.getPair .hl = x.2 ∧ RegsKeptBut [.h, .l] s t ∧ t.f = s.f ∧ PointersKept s t ∧
      Issued s t 8 [.write (s.getPair .hl) (s.getReg .a)]

/-- R111, R113: the address is the old HL, which then moves by plus or minus 1 modulo 65536. -/
def Obligations.LoadAFromHlThenMoveHl : Prop :=
  FetchedAs .ldAHli [0b00101010#8] ∧ FetchedAs .ldAHld [0b00111010#8] ∧
  ∀ s : State, ∀ x ∈ [(Instr.ldAHli, s.getPair .hl + 1), (Instr.ldAHld, s.getPair .hl - 1)],
    ∃ t, exec x.1 s = .next t ∧ t.getReg .a = s.mem.read (s.getPair .hl) ∧
      t.getPair .hl = x.2 ∧ RegsKeptBut [.a, .h, .l] s t ∧ t.f = s.f ∧ PointersKept s t ∧
      MemKept s t ∧ Issued s t 8 [.read (s.getPair .hl) (s.mem.read (s.getPair .hl))]

/-- R114. -/
def Obligations.StoreAAtBcOrDe : Prop :=
  FetchedAs .ldIndBcA [0b00000010#8] ∧ FetchedAs .ldIndDeA [0b00010010#8] ∧
  ∀ s : State, ∀ x ∈ [(Instr.ldIndBcA, s.getPair .bc), (Instr.ldIndDeA, s.getPair .de)],
    ∃ t, exec x.1 s = .next t ∧ MemStored x.2 (s.getReg .a) s t ∧ RegsKeptBut [] s t ∧ t.f = s.f ∧
      PointersKept s t ∧ Issued s t 8 [.write x.2 (s.getReg .a)]

/-- R115. -/
def Obligations.LoadAFromBcOrDe : Prop :=
  FetchedAs .ldAIndBc [0b00001010#8] ∧ FetchedAs .ldAIndDe [0b00011010#8] ∧
  ∀ s : State, ∀ x ∈ [(Instr.ldAIndBc, s.getPair .bc), (Instr.ldAIndDe, s.getPair .de)],
    ∃ t, exec x.1 s = .next t ∧ t.getReg .a = s.mem.read x.2 ∧ RegsKeptBut [.a] s t ∧ t.f = s.f ∧
      PointersKept s t ∧ MemKept s t ∧ Issued s t 8 [.read x.2 (s.mem.read x.2)]

/-! ### Relative jumps (46_jr.md) -/

/-- R120. -/
def Obligations.JumpRelativeAddsTheDisplacement : Prop :=
  ∀ (e : Byte) (s : State),
    FetchedAs (.jr e) [0b00011000#8, e] ∧
    ∃ t, exec (.jr e) s = .next t ∧ t.pc = s.pc + BitVec.ofInt 16 e.toInt ∧
      RegsKeptBut [] s t ∧ t.f = s.f ∧ t.sp = s.sp ∧ MemKept s t ∧ Issued s t 12 []

/-- R121. -/
def Obligations.JumpRelativeOnCondition : Prop :=
  ∀ (i : Instr) (x : Cond) (e : Byte) (s : State), i.form = .jrCc x e →
    let take := (x = .nz ∧ s.getFlag .z = false) ∨ (x = .z ∧ s.getFlag .z = true) ∨
      (x = .nc ∧ s.getFlag .c = false) ∨ (x = .c ∧ s.getFlag .c = true)
    FetchedAs i [0b001#3 ++ x.code ++ 0b000#3, e] ∧
    ∃ t, exec i s = .next t ∧
      (take → t.pc = s.pc + BitVec.ofInt 16 e.toInt ∧ Issued s t 12 []) ∧
      (¬ take → t.pc = s.pc ∧ Issued s t 8 []) ∧
      RegsKeptBut [] s t ∧ t.f = s.f ∧ t.sp = s.sp ∧ MemKept s t

/-! ### The LD r,r' block (47_ld_r_r.md) -/

/-- R125. -/
def Obligations.LoadRegisterFromRegister : Prop :=
  ∀ (i : Instr) (r r' : R8) (s : State), i.form = .ldRR r r' →
    FetchedAs i [0b01#2 ++ r.slot ++ r'.slot] ∧
    ∃ t, exec i s = .next t ∧ t.getReg r = s.getReg r' ∧ RegsKeptBut [r] s t ∧ t.f = s.f ∧
      PointersKept s t ∧ MemKept s t ∧ Issued s t 4 []

/-- R126: the address is HL as it is before the write. -/
def Obligations.LoadRegisterFromCellAtHl : Prop :=
  ∀ (i : Instr) (r : R8) (s : State), i.form = .ldRHlInd r →
    let v := s.mem.read (s.getPair .hl)
    FetchedAs i [0b01#2 ++ r.slot ++ 0b110#3] ∧
    ∃ t, exec i s = .next t ∧ t.getReg r = v ∧ RegsKeptBut [r] s t ∧ t.f = s.f ∧
      PointersKept s t ∧ MemKept s t ∧ Issued s t 8 [.read (s.getPair .hl) v]

/-- R127. -/
def Obligations.StoreRegisterInCellAtHl : Prop :=
  ∀ (i : Instr) (r : R8) (s : State), i.form = .ldHlIndR r →
    FetchedAs i [0b01110#5 ++ r.slot] ∧
    ∃ t, exec i s = .next t ∧ MemStored (s.getPair .hl) (s.getReg r) s t ∧ RegsKeptBut [] s t ∧
      t.f = s.f ∧ PointersKept s t ∧ Issued s t 8 [.write (s.getPair .hl) (s.getReg r)]

/-! ### Flag-only instructions (48_scf_ccf.md) -/

/-- R130. -/
def Obligations.SetCarryFlag : Prop :=
  FetchedAs .scf [0b00110111#8] ∧
  ∀ s : State, ∃ t, exec .scf s = .next t ∧ FlagsAre s t (s.getFlag .z) false false true ∧
    RegsKeptBut [] s t ∧ PointersKept s t ∧ MemKept s t ∧ Issued s t 4 []

/-- R131: Carry is complemented under `CCF_MODE = toggle` and cleared under `CCF_MODE = clear`, and the rest
is the same, whatever the other parameters are. The default `toggle` is the spec's own choice
(92_eei_decisions.md D7; log entry 6). -/
def Obligations.ComplementCarryFlagUnderBothModes : Prop :=
  FetchedAs .ccf [0b00111111#8] ∧
  (∀ s : State, ∃ t, exec .ccf s = .next t ∧
    FlagsAre s t (s.getFlag .z) false false (!s.getFlag .c) ∧
    RegsKeptBut [] s t ∧ PointersKept s t ∧ MemKept s t ∧ Issued s t 4 []) ∧
  ∀ (σ : Type) (P : Params σ) (s : State σ), ∃ t, execWith P .ccf s = .next t ∧
    (P.ccfMode = .toggle → FlagsAre s t (s.getFlag .z) false false (!s.getFlag .c)) ∧
    (P.ccfMode = .clear → FlagsAre s t (s.getFlag .z) false false false) ∧
    RegsKeptBut [] s t ∧ PointersKept s t ∧ t.mem = s.mem ∧ Issued s t (P.cyc .ccf) []

/-! ### Stack (49_push_pop.md) -/

/-- R135: the word goes to the old SP minus 2, low register at the lower address and first. -/
def Obligations.PushStoresThePairBelowSp : Prop :=
  ∀ (i : Instr) (p : Pair) (s : State), i.form = .push p →
    let v := s.getPair p
    FetchedAs i [0b11#2 ++ p.code ++ 0b0101#4] ∧
    ∃ t, exec i s = .next t ∧ t.sp = s.sp - 2 ∧ MemStoredWord (s.sp - 2) v s t ∧
      RegsKeptBut [] s t ∧ t.f = s.f ∧ t.pc = s.pc ∧
      Issued s t 16 [.write (s.sp - 2) (v.extractLsb' 0 8), .write (s.sp - 1) (v.extractLsb' 8 8)]

/-- R136. -/
def Obligations.PopLoadsThePairAtSp : Prop :=
  ∀ (i : Instr) (p : Pair) (s : State), i.form = .pop p → p ≠ .af →
    let lo := s.mem.read s.sp
    let hi := s.mem.read (s.sp + 1)
    FetchedAs i [0b11#2 ++ p.code ++ 0b0001#4] ∧
    ∃ t, exec i s = .next t ∧ t.getPair p = hi ++ lo ∧ t.sp = s.sp + 2 ∧
      RegsKeptBut (Pair.regs p) s t ∧ t.f = s.f ∧ t.pc = s.pc ∧ MemKept s t ∧
      Issued s t 12 [.read s.sp lo, .read (s.sp + 1) hi]

/-- R137: under `POP_AF_F_MASK = 0xF0` bits 3:0 of F become 0, under 0xFF all eight bits are loaded, whatever
the other parameters are. The default 0xF0 is the spec's own choice (92_eei_decisions.md D8; log entry 7). -/
def Obligations.PopAfLoadsAAndMaskedF : Prop :=
  FetchedAs .popAf [0b11110001#8] ∧
  (∀ s : State,
    let lo := s.mem.read s.sp
    let hi := s.mem.read (s.sp + 1)
    ∃ t, exec .popAf s = .next t ∧ t.getReg .a = hi ∧ t.f = lo &&& 0xF0#8 ∧ t.sp = s.sp + 2 ∧
      RegsKeptBut [.a] s t ∧ t.pc = s.pc ∧ MemKept s t ∧
      Issued s t 12 [.read s.sp lo, .read (s.sp + 1) hi]) ∧
  ∀ (σ : Type) (P : Params σ) (s : State σ),
    let lo := P.port.read s.mem s.sp
    let hi := P.port.read lo.2 (s.sp + 1)
    ∃ t, execWith P .popAf s = .next t ∧ t.getReg .a = hi.1 ∧
      (P.popAfMask = .keepHigh → t.f = lo.1 &&& 0xF0#8) ∧ (P.popAfMask = .keepAll → t.f = lo.1) ∧
      t.sp = s.sp + 2 ∧ RegsKeptBut [.a] s t ∧ t.pc = s.pc ∧ t.mem = hi.2 ∧
      Issued s t (P.cyc .pop) [.read s.sp lo.1, .read (s.sp + 1) hi.1]
end

