-- ==== Sys2Proof/Laws/Decode.lean ====
section
/-! SUPPORT. The decoder's pieces: forms and instructions correspond one to one, and each field decoder
undoes its code (30_encoding.md R64 to R67, R70). -/

namespace Sys2Proof

/-- An instruction is the table row of its form. -/
@[simp] theorem Instr.toInstr_form (i : Instr) : i.form.toInstr = i := by
  cases i <;> rfl

/-- A form is the form of its table row. -/
@[simp] theorem Form.form_toInstr (x : Form) : x.toInstr.form = x := by
  rcases x with _ | ⟨_ | _, _⟩ | _ | _ | _ | _ | _ | _ | _ | _ | ⟨_ | _⟩ | ⟨_ | _⟩ | ⟨_ | _⟩ |
    ⟨_ | _⟩ | _ | ⟨_ | _⟩ | _ | ⟨_ | _, _⟩ | _ | _ | _ | _ | _ | ⟨_ | _, _⟩ | _ | _ |
    ⟨_ | _, _ | _⟩ | ⟨_ | _⟩ | ⟨_ | _⟩ | ⟨_ | _⟩ | _ | ⟨_ | _⟩ | ⟨_ | _⟩ | _ <;> rfl

/-- Two instructions of one form are the same instruction. -/
theorem Instr.eq_of_form {i : Instr} {x : Form} (same : i.form = x) : i = x.toInstr := by
  rw [← same, Instr.toInstr_form]

@[simp] theorem decodeR8_slot (r : R8) : decodeR8 r.slot = .reg r := by
  cases r <;> rfl

@[simp] theorem decodeR16_code (p : R16) : decodeR16 p.code = p := by
  cases p <;> rfl

@[simp] theorem decodePair_code (p : Pair) : decodePair p.code = p := by
  cases p <;> rfl

@[simp] theorem decodeCond_code (x : Cond) : decodeCond x.code = x := by
  cases x <;> rfl

end Sys2Proof
end

