-- ==== Sys2Proof/Laws/State.lean ====
section
/-! SUPPORT. One lemma per field per update of the state: what each update writes and what it keeps. -/

namespace Sys2Proof.Machine

variable {σ : Type}

/-- A register write is seen by a read of that register and of no other (10_state.md R21). -/
@[simp] theorem State.getReg_setReg (s : State σ) (r q : R8) (v : Byte) :
    (s.setReg r v).getReg q = if q = r then v else s.getReg q := by
  cases r <;> cases q <;> rfl

/-! ### `setReg` -/

@[simp] theorem State.setReg_f (s : State σ) (r : R8) (v : Byte) : (s.setReg r v).f = s.f := by
  cases r <;> rfl

@[simp] theorem State.setReg_pc (s : State σ) (r : R8) (v : Byte) : (s.setReg r v).pc = s.pc := by
  cases r <;> rfl

@[simp] theorem State.setReg_sp (s : State σ) (r : R8) (v : Byte) : (s.setReg r v).sp = s.sp := by
  cases r <;> rfl

@[simp] theorem State.setReg_mem (s : State σ) (r : R8) (v : Byte) : (s.setReg r v).mem = s.mem := by
  cases r <;> rfl

@[simp] theorem State.setReg_accesses (s : State σ) (r : R8) (v : Byte) : (s.setReg r v).accesses = s.accesses := by
  cases r <;> rfl

@[simp] theorem State.setReg_report (s : State σ) (r : R8) (v : Byte) : (s.setReg r v).report = s.report := by
  cases r <;> rfl

/-! ### `setF` -/

@[simp] theorem State.getReg_setF (s : State σ) (v : Byte) (q : R8) :
    (s.setF v).getReg q = s.getReg q := by
  cases q <;> rfl

@[simp] theorem State.setF_f (s : State σ) (v : Byte) : (s.setF v).f = v := rfl

@[simp] theorem State.setF_pc (s : State σ) (v : Byte) : (s.setF v).pc = s.pc := rfl

@[simp] theorem State.setF_sp (s : State σ) (v : Byte) : (s.setF v).sp = s.sp := rfl

@[simp] theorem State.setF_mem (s : State σ) (v : Byte) : (s.setF v).mem = s.mem := rfl

@[simp] theorem State.setF_accesses (s : State σ) (v : Byte) : (s.setF v).accesses = s.accesses := rfl

@[simp] theorem State.setF_report (s : State σ) (v : Byte) : (s.setF v).report = s.report := rfl

/-! ### `setPc` -/

@[simp] theorem State.getReg_setPc (s : State σ) (v : Word) (q : R8) :
    (s.setPc v).getReg q = s.getReg q := by
  cases q <;> rfl

@[simp] theorem State.setPc_f (s : State σ) (v : Word) : (s.setPc v).f = s.f := rfl

@[simp] theorem State.setPc_pc (s : State σ) (v : Word) : (s.setPc v).pc = v := rfl

@[simp] theorem State.setPc_sp (s : State σ) (v : Word) : (s.setPc v).sp = s.sp := rfl

@[simp] theorem State.setPc_mem (s : State σ) (v : Word) : (s.setPc v).mem = s.mem := rfl

@[simp] theorem State.setPc_accesses (s : State σ) (v : Word) : (s.setPc v).accesses = s.accesses := rfl

@[simp] theorem State.setPc_report (s : State σ) (v : Word) : (s.setPc v).report = s.report := rfl

/-! ### `setSp` -/

@[simp] theorem State.getReg_setSp (s : State σ) (v : Word) (q : R8) :
    (s.setSp v).getReg q = s.getReg q := by
  cases q <;> rfl

@[simp] theorem State.setSp_f (s : State σ) (v : Word) : (s.setSp v).f = s.f := rfl

@[simp] theorem State.setSp_pc (s : State σ) (v : Word) : (s.setSp v).pc = s.pc := rfl

@[simp] theorem State.setSp_sp (s : State σ) (v : Word) : (s.setSp v).sp = v := rfl

@[simp] theorem State.setSp_mem (s : State σ) (v : Word) : (s.setSp v).mem = s.mem := rfl

@[simp] theorem State.setSp_accesses (s : State σ) (v : Word) : (s.setSp v).accesses = s.accesses := rfl

@[simp] theorem State.setSp_report (s : State σ) (v : Word) : (s.setSp v).report = s.report := rfl

/-! ### `setMem` -/

@[simp] theorem State.getReg_setMem (s : State σ) (m : σ) (q : R8) :
    (s.setMem m).getReg q = s.getReg q := by
  cases q <;> rfl

@[simp] theorem State.setMem_f (s : State σ) (m : σ) : (s.setMem m).f = s.f := rfl

@[simp] theorem State.setMem_pc (s : State σ) (m : σ) : (s.setMem m).pc = s.pc := rfl

@[simp] theorem State.setMem_sp (s : State σ) (m : σ) : (s.setMem m).sp = s.sp := rfl

@[simp] theorem State.setMem_mem (s : State σ) (m : σ) : (s.setMem m).mem = m := rfl

@[simp] theorem State.setMem_accesses (s : State σ) (m : σ) : (s.setMem m).accesses = s.accesses := rfl

@[simp] theorem State.setMem_report (s : State σ) (m : σ) : (s.setMem m).report = s.report := rfl

/-- Putting back the port's state changes nothing. -/
@[simp] theorem State.setMem_self (s : State σ) : s.setMem s.mem = s := rfl

@[simp] theorem State.setMem_setMem (s : State σ) (m m' : σ) : (s.setMem m).setMem m' = s.setMem m' := rfl

/-! ### `logAccess` -/

@[simp] theorem State.getReg_logAccess (s : State σ) (x : Access) (q : R8) :
    (s.logAccess x).getReg q = s.getReg q := by
  cases q <;> rfl

@[simp] theorem State.logAccess_f (s : State σ) (x : Access) : (s.logAccess x).f = s.f := rfl

@[simp] theorem State.logAccess_pc (s : State σ) (x : Access) : (s.logAccess x).pc = s.pc := rfl

@[simp] theorem State.logAccess_sp (s : State σ) (x : Access) : (s.logAccess x).sp = s.sp := rfl

@[simp] theorem State.logAccess_mem (s : State σ) (x : Access) : (s.logAccess x).mem = s.mem := rfl

@[simp] theorem State.logAccess_accesses (s : State σ) (x : Access) : (s.logAccess x).accesses = s.accesses ++ [x] := rfl

@[simp] theorem State.logAccess_report (s : State σ) (x : Access) : (s.logAccess x).report = s.report := rfl

/-! ### `setReport` -/

@[simp] theorem State.getReg_setReport (s : State σ) (x : Report) (q : R8) :
    (s.setReport x).getReg q = s.getReg q := by
  cases q <;> rfl

@[simp] theorem State.setReport_f (s : State σ) (x : Report) : (s.setReport x).f = s.f := rfl

@[simp] theorem State.setReport_pc (s : State σ) (x : Report) : (s.setReport x).pc = s.pc := rfl

@[simp] theorem State.setReport_sp (s : State σ) (x : Report) : (s.setReport x).sp = s.sp := rfl

@[simp] theorem State.setReport_mem (s : State σ) (x : Report) : (s.setReport x).mem = s.mem := rfl

@[simp] theorem State.setReport_accesses (s : State σ) (x : Report) : (s.setReport x).accesses = s.accesses := rfl

@[simp] theorem State.setReport_report (s : State σ) (x : Report) : (s.setReport x).report = x := rfl

/-! ### `withRecord` -/

@[simp] theorem State.getReg_withRecord (s : State σ) (xs : List Access) (q : R8) :
    (s.withRecord xs).getReg q = s.getReg q := by
  cases q <;> rfl

@[simp] theorem State.withRecord_f (s : State σ) (xs : List Access) : (s.withRecord xs).f = s.f := rfl

@[simp] theorem State.withRecord_pc (s : State σ) (xs : List Access) : (s.withRecord xs).pc = s.pc := rfl

@[simp] theorem State.withRecord_sp (s : State σ) (xs : List Access) : (s.withRecord xs).sp = s.sp := rfl

@[simp] theorem State.withRecord_mem (s : State σ) (xs : List Access) : (s.withRecord xs).mem = s.mem := rfl

@[simp] theorem State.withRecord_accesses (s : State σ) (xs : List Access) : (s.withRecord xs).accesses = xs := rfl

@[simp] theorem State.withRecord_report (s : State σ) (xs : List Access) : (s.withRecord xs).report = s.report := rfl

/-- Two states that agree on every register and every other field are equal. -/
theorem State.ext_regs {s t : State σ} (regs : ∀ r, s.getReg r = t.getReg r) (f : s.f = t.f)
    (pc : s.pc = t.pc) (sp : s.sp = t.sp) (mem : s.mem = t.mem) (acc : s.accesses = t.accesses)
    (rep : s.report = t.report) : s = t := by
  obtain ⟨a, _, b, c, d, e, h, l⟩ := s
  obtain ⟨a', _, b', c', d', e', h', l'⟩ := t
  have ha := regs .a
  have hb := regs .b
  have hc := regs .c
  have hd := regs .d
  have he := regs .e
  have hh := regs .h
  have hl := regs .l
  simp only [State.getReg] at ha hb hc hd he hh hl f pc sp mem acc rep
  subst_vars
  rfl

end Sys2Proof.Machine
end

