-- ==== Sys2Proof/Laws/Flags.lean ====
section
/-! SUPPORT. What the flag operations write and what they keep (10_state.md R26, R27, R29, R39). -/

namespace Sys2Proof.Machine

variable {σ : Type}

/-! ### One flag -/

@[simp] theorem State.getReg_setFlag (s : State σ) (x : Flag) (v : Bool) (q : R8) :
    (s.setFlag x v).getReg q = s.getReg q := by simp [State.setFlag]

@[simp] theorem State.setFlag_pc (s : State σ) (x : Flag) (v : Bool) : (s.setFlag x v).pc = s.pc := rfl

@[simp] theorem State.setFlag_sp (s : State σ) (x : Flag) (v : Bool) : (s.setFlag x v).sp = s.sp := rfl

@[simp] theorem State.setFlag_mem (s : State σ) (x : Flag) (v : Bool) : (s.setFlag x v).mem = s.mem := rfl

@[simp] theorem State.setFlag_accesses (s : State σ) (x : Flag) (v : Bool) :
    (s.setFlag x v).accesses = s.accesses := rfl

@[simp] theorem State.setFlag_report (s : State σ) (x : Flag) (v : Bool) :
    (s.setFlag x v).report = s.report := rfl

/-- The bits of F after a flag write: the flag's own bit is the value, the others stay (R27). -/
theorem State.getLsbD_setFlag (s : State σ) (x : Flag) (v : Bool) (k : Nat) :
    (s.setFlag x v).f.getLsbD k = if k = x.bit then v else s.f.getLsbD k := by
  have set : ∀ f : Byte, ∀ j : Fin 8, ∀ x : Flag, ∀ v : Bool,
      (if v then f ||| x.mask else f &&& ~~~x.mask).getLsbD j = if j.val = x.bit then v else f.getLsbD j := by
    intro f j x v
    cases x <;> cases v <;> fin_cases j <;> simp [Flag.mask, Flag.bit]
  by_cases inside : k < 8
  · simpa [State.setFlag] using set s.f ⟨k, inside⟩ x v
  · have out : ∀ w : Byte, w.getLsbD k = false := fun w => BitVec.getLsbD_of_ge w k (by omega)
    have ne : k ≠ x.bit := by cases x <;> simp only [Flag.bit] <;> omega
    simp [out, ne]

/-- A flag write is seen by a read of that flag and of no other. -/
@[simp] theorem State.getFlag_setFlag (s : State σ) (x y : Flag) (v : Bool) :
    (s.setFlag x v).getFlag y = if y = x then v else s.getFlag y := by
  unfold State.getFlag
  rw [State.getLsbD_setFlag]
  cases x <;> cases y <;> simp [Flag.bit]

/-- A flag write keeps bits 3:0 of F. -/
@[simp] theorem State.setFlag_low (s : State σ) (x : Flag) (v : Bool) :
    (s.setFlag x v).f &&& 0x0F#8 = s.f &&& 0x0F#8 := by
  apply BitVec.eq_of_getLsbD_eq
  intro k less
  simp only [BitVec.getLsbD_and, State.getLsbD_setFlag]
  rcases x with _ | _ | _ | _ <;> interval_cases k <;> simp [Flag.bit]

/-! ### A flag after the other updates -/

@[simp] theorem State.getFlag_setReg (s : State σ) (r : R8) (v : Byte) (x : Flag) :
    (s.setReg r v).getFlag x = s.getFlag x := by simp [State.getFlag]

@[simp] theorem State.getFlag_setPc (s : State σ) (v : Word) (x : Flag) :
    (s.setPc v).getFlag x = s.getFlag x := rfl

@[simp] theorem State.getFlag_setSp (s : State σ) (v : Word) (x : Flag) :
    (s.setSp v).getFlag x = s.getFlag x := rfl

@[simp] theorem State.getFlag_setMem (s : State σ) (m : σ) (x : Flag) :
    (s.setMem m).getFlag x = s.getFlag x := rfl

@[simp] theorem State.getFlag_logAccess (s : State σ) (y : Access) (x : Flag) :
    (s.logAccess y).getFlag x = s.getFlag x := rfl

@[simp] theorem State.getFlag_setReport (s : State σ) (y : Report) (x : Flag) :
    (s.setReport y).getFlag x = s.getFlag x := rfl

@[simp] theorem State.getFlag_withRecord (s : State σ) (xs : List Access) (x : Flag) :
    (s.withRecord xs).getFlag x = s.getFlag x := rfl

/-! ### The shared flag writes -/

/-- `setZNH` writes Zero, Subtract and Half-carry and keeps Carry and bits 3:0 of F. -/
theorem State.flags_setZNH (s : State σ) (w : Byte) (n h : Bool) :
    FlagsAre s (s.setZNH w n h) (w == 0) n h (s.getFlag .c) := by
  simp [FlagsAre, State.setZNH]

/-- `setNHC` writes Subtract (to 0), Half-carry and Carry and keeps Zero and bits 3:0 of F. -/
theorem State.flags_setNHC (s : State σ) (h c : Bool) :
    FlagsAre s (s.setNHC h c) (s.getFlag .z) false h c := by
  simp [FlagsAre, State.setNHC]

/-- Neither writes anything but F. -/
theorem State.setZNH_keeps (s : State σ) (w : Byte) (n h : Bool) :
    (∀ q, (s.setZNH w n h).getReg q = s.getReg q) ∧ (s.setZNH w n h).pc = s.pc ∧
      (s.setZNH w n h).sp = s.sp ∧ (s.setZNH w n h).mem = s.mem ∧
      (s.setZNH w n h).accesses = s.accesses ∧ (s.setZNH w n h).report = s.report := by
  simp [State.setZNH]

theorem State.setNHC_keeps (s : State σ) (h c : Bool) :
    (∀ q, (s.setNHC h c).getReg q = s.getReg q) ∧ (s.setNHC h c).pc = s.pc ∧
      (s.setNHC h c).sp = s.sp ∧ (s.setNHC h c).mem = s.mem ∧
      (s.setNHC h c).accesses = s.accesses ∧ (s.setNHC h c).report = s.report := by
  simp [State.setNHC]

end Sys2Proof.Machine
end

