-- ==== Sys2Proof/Laws/Memory.lean ====
section
/-! SUPPORT. The laws of the reference port's array (20_memory.md R47, R50): a read gives the byte last
written there, a write leaves every other address alone, and the canonical form is kept. -/

namespace Sys2Proof.Machine

theorem Memory.read_insertCell_same (a : Word) (v : Byte) (m : Memory)
    (absent : ∀ cell ∈ m, cell.1 ≠ a.toNat) : (Memory.insertCell a.toNat v m).read a = v := by
  induction m with
  | nil => simp [Memory.insertCell, Memory.read]
  | cons cell rest ih =>
    have head : cell.1 ≠ a.toNat := absent cell (by simp)
    have tail := ih fun x hx => absent x (by simp [hx])
    by_cases less : cell.1 < a.toNat <;> simp [Memory.insertCell, Memory.read, less, head, tail]

theorem Memory.read_insertCell_other (k : Nat) (x : Word) (v : Byte) (m : Memory)
    (ne : k ≠ x.toNat) : (Memory.insertCell k v m).read x = m.read x := by
  induction m with
  | nil => simp [Memory.insertCell, Memory.read, ne]
  | cons cell rest ih =>
    by_cases less : cell.1 < k <;> simp [Memory.insertCell, Memory.read, less, ne, ih]

theorem Memory.read_filter_other (a x : Word) (m : Memory) (ne : x ≠ a) :
    Memory.read (m.filter fun cell => cell.1 ≠ a.toNat) x = m.read x := by
  have nat : a.toNat ≠ x.toNat := fun eq => ne (BitVec.eq_of_toNat_eq eq.symm)
  induction m with
  | nil => rfl
  | cons cell rest ih =>
    by_cases here : cell.1 = a.toNat
    · simp_all [Memory.read]
    · by_cases there : cell.1 = x.toNat <;> simp_all [Memory.read]

theorem Memory.read_of_absent (a : Word) (m : Memory) (absent : ∀ cell ∈ m, cell.1 ≠ a.toNat) :
    m.read a = Memory.unlisted := by
  induction m with
  | nil => rfl
  | cons cell rest ih =>
    have head : cell.1 ≠ a.toNat := absent cell (by simp)
    simp [Memory.read, head, ih fun x hx => absent x (by simp [hx])]

theorem Memory.absent_filter (a : Word) (m : Memory) :
    ∀ cell ∈ m.filter (fun cell => cell.1 ≠ a.toNat), cell.1 ≠ a.toNat := by
  intro cell mem
  simpa using (List.mem_filter.mp mem).2

/-- The byte written is the byte read, in every memory. -/
theorem Memory.read_write_same (m : Memory) (a : Word) (v : Byte) : (m.write a v).read a = v := by
  unfold Memory.write
  by_cases blank : v = Memory.unlisted
  · simpa [blank] using Memory.read_of_absent a _ (Memory.absent_filter a m)
  · simpa [blank] using Memory.read_insertCell_same a v _ (Memory.absent_filter a m)

/-- Every other address reads as before, in every memory. -/
theorem Memory.read_write_other (m : Memory) (a x : Word) (v : Byte) (ne : x ≠ a) :
    (m.write a v).read x = m.read x := by
  have nat : a.toNat ≠ x.toNat := fun eq => ne (BitVec.eq_of_toNat_eq eq.symm)
  unfold Memory.write
  by_cases blank : v = Memory.unlisted
  · simpa [blank] using Memory.read_filter_other a x m ne
  · have keep := Memory.read_insertCell_other a.toNat x v
      (m.filter fun cell => cell.1 ≠ a.toNat) nat
    simpa [blank] using keep.trans (Memory.read_filter_other a x m ne)

/-- Both laws in one: what a read gives after a write. -/
theorem Memory.read_write (m : Memory) (a x : Word) (v : Byte) :
    (m.write a v).read x = if x = a then v else m.read x := by
  by_cases same : x = a
  · simp [same, Memory.read_write_same]
  · simp [same, Memory.read_write_other]

theorem Memory.mem_insertCell (k : Nat) (v : Byte) (m : Memory) (cell : Host.Cell) :
    cell ∈ Memory.insertCell k v m ↔ cell = (k, v) ∨ cell ∈ m := by
  induction m with
  | nil => simp [Memory.insertCell]
  | cons head rest ih =>
    by_cases less : head.1 < k
    · simp only [Memory.insertCell, less, if_true, List.mem_cons, ih]
      tauto
    · simp [Memory.insertCell, less]

theorem Memory.pairwise_insertCell (k : Nat) (v : Byte) (m : Memory)
    (sorted : m.Pairwise fun x y => x.1 < y.1) (absent : ∀ cell ∈ m, cell.1 ≠ k) :
    (Memory.insertCell k v m).Pairwise fun x y => x.1 < y.1 := by
  induction m with
  | nil => simp [Memory.insertCell]
  | cons head rest ih =>
    obtain ⟨below, tail⟩ := List.pairwise_cons.mp sorted
    have ne : head.1 ≠ k := absent head (by simp)
    by_cases less : head.1 < k
    · have inner := ih tail fun x hx => absent x (by simp [hx])
      simp only [Memory.insertCell, less, if_true, List.pairwise_cons]
      refine ⟨fun cell mem => ?_, inner⟩
      rcases (Memory.mem_insertCell k v rest cell).mp mem with rfl | old
      · exact less
      · exact below cell old
    · have above : k < head.1 := by omega
      simp only [Memory.insertCell, less, if_false, List.pairwise_cons]
      refine ⟨fun cell mem => ?_, below, tail⟩
      rcases List.mem_cons.mp mem with rfl | old
      · exact above
      · exact above.trans (below cell old)

/-- A write keeps the canonical form. -/
theorem Memory.wf_write (m : Memory) (a : Word) (v : Byte) (ok : m.wf) : (m.write a v).wf := by
  obtain ⟨sorted, cells⟩ := ok
  have sorted' : (m.filter fun cell => cell.1 ≠ a.toNat).Pairwise fun x y => x.1 < y.1 :=
    sorted.filter _
  have cells' : ∀ cell ∈ m.filter (fun cell => cell.1 ≠ a.toNat),
      cell.1 < 65536 ∧ cell.2 ≠ Memory.unlisted :=
    fun cell mem => cells cell (List.mem_filter.mp mem).1
  unfold Memory.write
  by_cases blank : v = Memory.unlisted
  · simp only [blank, if_true]
    exact ⟨sorted', cells'⟩
  · simp only [blank, if_false]
    refine ⟨Memory.pairwise_insertCell _ v _ sorted' (Memory.absent_filter a m), fun cell mem => ?_⟩
    rcases (Memory.mem_insertCell _ v _ cell).mp mem with rfl | old
    · exact ⟨a.isLt, blank⟩
    · exact cells' cell old

/-- Placing bytes keeps the canonical form. -/
theorem Memory.wf_place (m : Memory) (a : Word) (bytes : List Byte) (ok : m.wf) :
    (m.place a bytes).wf := by
  induction bytes generalizing m a with
  | nil => exact ok
  | cons v rest ih => exact ih (m.write a v) (a + 1) (Memory.wf_write m a v ok)

/-- The memory after reset is in canonical form. -/
theorem State.wf_reset : State.reset.mem.wf := by decide

end Sys2Proof.Machine
end

