-- ==== Sys2Proof/Laws/Ops.lean ====
section
/-! SUPPORT. One lemma per shared operation that says everything it does: pair views, port operations,
operand locations, fetch, and how a step ends. -/

namespace Sys2Proof.Machine

variable {σ : Type}

/-! ### Bytes of a word (00_scope.md R8) -/

@[simp] theorem hiByte_joinBytes (hi lo : Byte) : hiByte (joinBytes hi lo) = hi := by
  apply BitVec.eq_of_getLsbD_eq
  intro k less
  simp only [hiByte, joinBytes, BitVec.getLsbD_extractLsb', BitVec.getLsbD_append]
  simp [less]

@[simp] theorem loByte_joinBytes (hi lo : Byte) : loByte (joinBytes hi lo) = lo := by
  apply BitVec.eq_of_getLsbD_eq
  intro k less
  simp only [loByte, joinBytes, BitVec.getLsbD_extractLsb', BitVec.getLsbD_append]
  simp [less]

@[simp] theorem joinBytes_halves (v : Word) : joinBytes (hiByte v) (loByte v) = v := by
  apply BitVec.eq_of_getLsbD_eq
  intro k less
  simp only [joinBytes, hiByte, loByte, BitVec.getLsbD_append, BitVec.getLsbD_extractLsb']
  by_cases low : k < 8
  · simp [low]
  · have high : k - 8 < 8 := by omega
    have same : 8 + (k - 8) = k := by omega
    simp [low, high, same]

/-! ### Pair views (10_state.md R23) -/

/-- A pair depends on the registers and F alone. -/
theorem State.getPair_congr {s t : State σ} (p : Pair) (regs : ∀ r, s.getReg r = t.getReg r)
    (f : s.f = t.f) : s.getPair p = t.getPair p := by
  cases p <;> simp [State.getPair, regs, f]

/-- A pair but AF depends on the registers alone. -/
theorem State.getPair_congr_regs {s t : State σ} (p : Pair) (other : p ≠ .af)
    (regs : ∀ r, s.getReg r = t.getReg r) : s.getPair p = t.getPair p := by
  cases p <;> simp_all [State.getPair]

/-! A pair after the updates that touch neither register nor F. -/

@[simp] theorem State.getPair_setPc (s : State σ) (v : Word) (p : Pair) :
    (s.setPc v).getPair p = s.getPair p := by cases p <;> rfl

@[simp] theorem State.getPair_setSp (s : State σ) (v : Word) (p : Pair) :
    (s.setSp v).getPair p = s.getPair p := by cases p <;> rfl

@[simp] theorem State.getPair_setMem (s : State σ) (m : σ) (p : Pair) :
    (s.setMem m).getPair p = s.getPair p := by cases p <;> rfl

@[simp] theorem State.getPair_logAccess (s : State σ) (x : Access) (p : Pair) :
    (s.logAccess x).getPair p = s.getPair p := by cases p <;> rfl

@[simp] theorem State.getPair_setReport (s : State σ) (x : Report) (p : Pair) :
    (s.setReport x).getPair p = s.getPair p := by cases p <;> rfl

@[simp] theorem State.getPair_withRecord (s : State σ) (xs : List Access) (p : Pair) :
    (s.withRecord xs).getPair p = s.getPair p := by cases p <;> rfl

/-- A pair written reads back (R23). -/
@[simp] theorem State.getPair_setPair_same (s : State σ) (p : Pair) (v : Word) :
    (s.setPair p v).getPair p = v := by
  cases p <;> simp [State.setPair, State.getPair]

/-- What a pair write keeps: every register outside the pair. -/
theorem State.getReg_setPair (s : State σ) (p : Pair) (v : Word) (q : R8) (outside : q ∉ Pair.regs p) :
    (s.setPair p v).getReg q = s.getReg q := by
  cases p <;> simp_all [State.setPair, Pair.regs]

/-- F after a pair write: the low byte for AF, else as before. -/
@[simp] theorem State.setPair_f (s : State σ) (p : Pair) (v : Word) :
    (s.setPair p v).f = if p = .af then loByte v else s.f := by
  cases p <;> simp [State.setPair]

@[simp] theorem State.setPair_pc (s : State σ) (p : Pair) (v : Word) : (s.setPair p v).pc = s.pc := by
  cases p <;> simp [State.setPair]

@[simp] theorem State.setPair_sp (s : State σ) (p : Pair) (v : Word) : (s.setPair p v).sp = s.sp := by
  cases p <;> simp [State.setPair]

@[simp] theorem State.setPair_mem (s : State σ) (p : Pair) (v : Word) : (s.setPair p v).mem = s.mem := by
  cases p <;> simp [State.setPair]

@[simp] theorem State.setPair_accesses (s : State σ) (p : Pair) (v : Word) :
    (s.setPair p v).accesses = s.accesses := by
  cases p <;> simp [State.setPair]

@[simp] theorem State.setPair_report (s : State σ) (p : Pair) (v : Word) :
    (s.setPair p v).report = s.report := by
  cases p <;> simp [State.setPair]

/-! ### 16-bit operands (30_encoding.md R65) -/

/-- A 16-bit operand depends on the registers and SP alone. -/
theorem State.getR16_congr {s t : State σ} (p : R16) (regs : ∀ r, s.getReg r = t.getReg r)
    (sp : s.sp = t.sp) : s.getR16 p = t.getR16 p := by
  cases p <;> simp [State.getR16, State.getPair, regs, sp]

@[simp] theorem State.getR16_setR16_same (s : State σ) (p : R16) (v : Word) :
    (s.setR16 p v).getR16 p = v := by
  cases p <;> simp [State.setR16, State.getR16]

theorem State.getReg_setR16 (s : State σ) (p : R16) (v : Word) (q : R8) (outside : q ∉ R16.regs p) :
    (s.setR16 p v).getReg q = s.getReg q := by
  cases p <;> simp_all [State.setR16, State.setPair, R16.regs]

@[simp] theorem State.setR16_f (s : State σ) (p : R16) (v : Word) : (s.setR16 p v).f = s.f := by
  cases p <;> simp [State.setR16]

@[simp] theorem State.setR16_pc (s : State σ) (p : R16) (v : Word) : (s.setR16 p v).pc = s.pc := by
  cases p <;> simp [State.setR16]

@[simp] theorem State.setR16_sp (s : State σ) (p : R16) (v : Word) :
    (s.setR16 p v).sp = if p = .sp then v else s.sp := by
  cases p <;> simp [State.setR16]

@[simp] theorem State.setR16_mem (s : State σ) (p : R16) (v : Word) : (s.setR16 p v).mem = s.mem := by
  cases p <;> simp [State.setR16]

@[simp] theorem State.setR16_accesses (s : State σ) (p : R16) (v : Word) :
    (s.setR16 p v).accesses = s.accesses := by
  cases p <;> simp [State.setR16]

/-! ### The parameters at their defaults (00_scope.md R7) -/

@[simp] theorem defaults_port : defaults.port = referencePort := rfl

@[simp] theorem defaults_cyc : defaults.cyc = cyc := rfl

@[simp] theorem defaults_ccfMode : defaults.ccfMode = .toggle := rfl

@[simp] theorem defaults_popAfMask : defaults.popAfMask = .keepHigh := rfl

/-! ### Port operations (20_memory.md R40 to R43) -/

/-- A byte read gives the port's byte, leaves the port as the port says, and records the access. -/
theorem State.readByte_eq (s : State σ) (port : Port σ) (a : Word) :
    s.readByte port a = ((port.read s.mem a).1,
      (s.setMem (port.read s.mem a).2).logAccess (.read a (port.read s.mem a).1)) := rfl

/-- A byte write is handed to the port and recorded. -/
theorem State.writeByte_eq (s : State σ) (port : Port σ) (a : Word) (v : Byte) :
    s.writeByte port a v = (s.setMem (port.write s.mem a v)).logAccess (.write a v) := rfl

/-- The reference port answers the byte of its array and does not change (R47). -/
@[simp] theorem referencePort_read (m : Memory) (a : Word) : referencePort.read m a = (m.read a, m) := rfl

/-- The reference port stores the byte in its array (R47). -/
@[simp] theorem referencePort_write (m : Memory) (a : Word) (v : Byte) :
    referencePort.write m a v = m.write a v := rfl

/-- A byte write to the reference port is seen at its address only. -/
theorem State.read_writeByte (s : State) (a x : Word) (v : Byte) :
    (s.writeByte referencePort a v).mem.read x = if x = a then v else s.mem.read x := by
  simp [State.writeByte_eq, Memory.read_write]

theorem State.memStored_writeByte (s : State) (a : Word) (v : Byte) :
    MemStored a v s (s.writeByte referencePort a v) := by
  refine ⟨by simp [State.read_writeByte], fun x ne => by simp [State.read_writeByte, ne]⟩

/-- A word read is two byte reads, low byte first (R42). -/
theorem State.readWord_eq (s : State σ) (port : Port σ) (a : Word) :
    s.readWord port a =
      (joinBytes ((s.readByte port a).2.readByte port (a + 1)).1 (s.readByte port a).1,
        ((s.readByte port a).2.readByte port (a + 1)).2) := rfl

/-- On the reference port that is the two bytes of memory, and nothing changes but the record. -/
theorem State.readWord_reference (s : State) (a : Word) :
    s.readWord referencePort a = (joinBytes (s.mem.read (a + 1)) (s.mem.read a),
      (s.logAccess (.read a (s.mem.read a))).logAccess (.read (a + 1) (s.mem.read (a + 1)))) := rfl

/-- The address after an address is another one. -/
theorem next_ne (a : Word) : a + 1 ≠ a := by
  intro same
  have := congrArg (· - a) same
  simp at this

/-- A word write to the reference port is seen at its two addresses only (R43). -/
theorem State.memStoredWord_writeWord (s : State) (a v : Word) :
    MemStoredWord a v s (s.writeWord referencePort a v) := by
  refine ⟨?_, ?_, fun x one two => ?_⟩
  · simp only [State.writeWord, State.read_writeByte, if_neg (next_ne a).symm, if_true]
  · simp only [State.writeWord, State.read_writeByte, if_true]
  · simp only [State.writeWord, State.read_writeByte, if_neg one, if_neg two]

/-- A word write is recorded low byte first, on every port. -/
theorem State.writeWord_accesses (s : State σ) (port : Port σ) (a v : Word) :
    (s.writeWord port a v).accesses =
      s.accesses ++ [.write a (loByte v), .write (a + 1) (hiByte v)] := by
  simp [State.writeWord, State.writeByte_eq]

/-! ### Operand locations (30_encoding.md R64) -/

/-- Reading a location: its byte, with the one access if it is the cell at HL. -/
theorem State.getLoc_eq (s : State σ) (port : Port σ) (x : Loc) :
    s.getLoc port x = match x with
      | .reg r => (s.getReg r, s)
      | .hlInd => s.readByte port (s.getPair .hl) := by
  cases x <;> rfl

/-- Writing a location: its register, or the byte at HL with the one access. -/
theorem State.setLoc_eq (s : State σ) (port : Port σ) (x : Loc) (v : Byte) :
    s.setLoc port x v = match x with
      | .reg r => s.setReg r v
      | .hlInd => s.writeByte port (s.getPair .hl) v := by
  cases x <;> rfl

/-! ### Fetch (00_scope.md R12) -/

/-- `Fetch8`: a byte read at PC, which then moves on. -/
theorem State.fetch8_eq (s : State σ) (port : Port σ) :
    s.fetch8 port = ((s.readByte port s.pc).1, (s.readByte port s.pc).2.setPc (s.pc + 1)) := rfl

/-- `Fetch16`: two of them, the low byte first. -/
theorem State.fetch16_eq (s : State σ) (port : Port σ) :
    s.fetch16 port =
      (joinBytes ((s.fetch8 port).2.fetch8 port).1 (s.fetch8 port).1, ((s.fetch8 port).2.fetch8 port).2) := rfl

/-- Fetching an instruction gives what the decoder makes of the bytes the port answers at PC and after it; PC
is then past the instruction, the reads are recorded in ascending order, the port is as they leave it, and
nothing else has changed. -/
theorem State.fetchInstr_eq (s : State σ) (port : Port σ) :
    s.fetchInstr port =
      let op := port.read s.mem s.pc
      let n1 := port.read op.2 (s.pc + 1)
      let n2 := port.read n1.2 (s.pc + 2)
      match formatOf op.1 with
      | .op => (instrOf op.1 0 0,
          ((s.setPc (s.pc + 1)).setMem op.2).withRecord (s.accesses ++ [.read s.pc op.1]))
      | .opN | .opE => (instrOf op.1 n1.1 0,
          ((s.setPc (s.pc + 2)).setMem n1.2).withRecord
            (s.accesses ++ [.read s.pc op.1, .read (s.pc + 1) n1.1]))
      | .opNn => (instrOf op.1 n1.1 n2.1,
          ((s.setPc (s.pc + 3)).setMem n2.2).withRecord
            (s.accesses ++ [.read s.pc op.1, .read (s.pc + 1) n1.1, .read (s.pc + 2) n2.1])) := by
  have two : s.pc + 1 + 1 = s.pc + 2 := by rw [BitVec.add_assoc]; rfl
  have three : s.pc + 2 + 1 = s.pc + 3 := by rw [BitVec.add_assoc]; rfl
  unfold State.fetchInstr
  simp only [State.fetch16_eq, State.fetch8_eq, State.readByte_eq, loByte_joinBytes, hiByte_joinBytes,
    State.setPc_pc, State.setPc_mem, State.logAccess_mem, State.setMem_mem, two, three]
  cases formatOf (port.read s.mem s.pc).1 <;>
    simp [State.setPc, State.setMem, State.logAccess, State.withRecord]

/-- The same on the reference port, whose reads change nothing. -/
theorem State.fetchInstr_reference (s : State) :
    s.fetchInstr referencePort =
      match formatOf (s.mem.read s.pc) with
      | .op => (instrOf (s.mem.read s.pc) 0 0,
          (s.setPc (s.pc + 1)).withRecord (s.accesses ++ fetchAccesses s 1))
      | .opN | .opE => (instrOf (s.mem.read s.pc) (s.mem.read (s.pc + 1)) 0,
          (s.setPc (s.pc + 2)).withRecord (s.accesses ++ fetchAccesses s 2))
      | .opNn => (instrOf (s.mem.read s.pc) (s.mem.read (s.pc + 1)) (s.mem.read (s.pc + 2)),
          (s.setPc (s.pc + 3)).withRecord (s.accesses ++ fetchAccesses s 3)) := by
  rw [State.fetchInstr_eq]
  rfl

/-- The step is a fetch and the meaning of what was fetched. -/
theorem step_eq (s : State) :
    step s = exec ((s.withRecord []).fetchInstr referencePort).1
      ((s.withRecord []).fetchInstr referencePort).2 := rfl

theorem stepWith_eq (P : Params σ) (s : State σ) :
    stepWith P s = execWith P ((s.withRecord []).fetchInstr P.port).1
      ((s.withRecord []).fetchInstr P.port).2 := rfl

/-! ### The same machine behind another port -/

@[simp] theorem State.behind_f {τ : Type} (s : State σ) (m : τ) : (s.behind m).f = s.f := rfl

@[simp] theorem State.behind_pc {τ : Type} (s : State σ) (m : τ) : (s.behind m).pc = s.pc := rfl

@[simp] theorem State.behind_sp {τ : Type} (s : State σ) (m : τ) : (s.behind m).sp = s.sp := rfl

@[simp] theorem State.behind_mem {τ : Type} (s : State σ) (m : τ) : (s.behind m).mem = m := rfl

@[simp] theorem State.behind_accesses {τ : Type} (s : State σ) (m : τ) : (s.behind m).accesses = s.accesses := rfl

@[simp] theorem State.behind_report {τ : Type} (s : State σ) (m : τ) : (s.behind m).report = s.report := rfl

@[simp] theorem State.getReg_behind {τ : Type} (s : State σ) (m : τ) (r : R8) :
    (s.behind m).getReg r = s.getReg r := by
  cases r <;> rfl

@[simp] theorem State.getPair_behind {τ : Type} (s : State σ) (m : τ) (p : Pair) :
    (s.behind m).getPair p = s.getPair p := by
  cases p <;> rfl

@[simp] theorem State.setReg_behind {τ : Type} (s : State σ) (m : τ) (r : R8) (v : Byte) :
    (s.behind m).setReg r v = (s.setReg r v).behind m := by
  cases r <;> rfl

@[simp] theorem State.setPair_behind {τ : Type} (s : State σ) (m : τ) (p : Pair) (v : Word) :
    (s.behind m).setPair p v = (s.setPair p v).behind m := by
  cases p <;> rfl

@[simp] theorem State.setF_behind {τ : Type} (s : State σ) (m : τ) (v : Byte) :
    (s.behind m).setF v = (s.setF v).behind m := rfl

@[simp] theorem State.setPc_behind {τ : Type} (s : State σ) (m : τ) (v : Word) :
    (s.behind m).setPc v = (s.setPc v).behind m := rfl

@[simp] theorem State.setSp_behind {τ : Type} (s : State σ) (m : τ) (v : Word) :
    (s.behind m).setSp v = (s.setSp v).behind m := rfl

@[simp] theorem State.setFlag_behind {τ : Type} (s : State σ) (m : τ) (x : Flag) (v : Bool) :
    (s.behind m).setFlag x v = (s.setFlag x v).behind m := rfl

@[simp] theorem State.setReport_behind {τ : Type} (s : State σ) (m : τ) (x : Report) :
    (s.behind m).setReport x = (s.setReport x).behind m := rfl

/-- A port that answers what `port` would have answered is read as `port` is. -/
@[simp] theorem State.readByte_behind (s : State σ) (port : Port σ) (a : Word) (script : List Byte) :
    (s.behind ((port.read s.mem a).1 :: script)).readByte scriptedPort a =
      ((s.readByte port a).1, (s.readByte port a).2.behind script) := rfl

@[simp] theorem State.writeByte_behind (s : State σ) (port : Port σ) (a : Word) (v : Byte) (script : List Byte) :
    (s.behind script).writeByte scriptedPort a v = (s.writeByte port a v).behind script := rfl

/-- The answers of one record after another. -/
@[simp] theorem answers_append (xs ys : List Access) : answers (xs ++ ys) = answers xs ++ answers ys := by
  induction xs with
  | nil => rfl
  | cons x rest ih => cases x <;> simp [answers, ih]

/-- A port answers one record after another if it answers the first and, in the state that leaves, the
second. -/
theorem portAnswers_append (port : Port σ) (m m' : σ) (xs ys : List Access) :
    PortAnswers port m (xs ++ ys) m' ↔ ∃ between, PortAnswers port m xs between ∧ PortAnswers port between ys m' := by
  induction xs generalizing m with
  | nil => simp [PortAnswers]
  | cons x rest ih =>
    cases x with
    | read a v => simp [PortAnswers, ih, and_assoc]
    | write a v => simp [PortAnswers, ih]

/-! ### How a step ends (00_scope.md R13) -/

theorem finish_eq (P : Params σ) (k : CycKey) (s : State σ) :
    finish P k s = .next (s.setReport (.done (P.cyc k))) := rfl

theorem raiseUnassigned_eq (op : Byte) (s : State σ) :
    raiseUnassigned op s = .next (s.setReport (.unassigned op (s.pc - 1))) := rfl

/-- Every assigned instruction costs at least 4 (70_reset_and_hazards.md R171). -/
theorem cyc_ge_four (k : CycKey) (assignedKey : k ≠ .unassigned) : 4 ≤ cyc k := by
  cases k <;> simp_all [cyc]

end Sys2Proof.Machine
end

