-- ==== Sys2Proof/Laws/Exec.lean ====
section
/-! SUPPORT. What `exec` can do, said once by form: the shared meanings of
Machine/Parametric.lean in place of 139 arms. Every claim about
all instructions starts from `exec_eq_meaningOfForm`. -/

namespace Sys2Proof.Laws

open Machine

/-- Every arm of the dispatcher is the shared operation of its form, at the parameters' defaults. -/
theorem exec_eq_meaningOfForm (i : Instr) (s : State) : exec i s = meaningOfForm defaults i.form s := by
  cases i <;> rfl

/-- The same, for an instruction whose form is known. -/
theorem exec_of_form {i : Instr} {x : Form} (form : i.form = x) (s : State) :
    exec i s = meaningOfForm defaults x s := by
  rw [exec_eq_meaningOfForm, form]

theorem execWith_of_form {σ : Type} (P : Params σ) {i : Instr} {x : Form} (form : i.form = x) (s : State σ) :
    execWith P i s = meaningOfForm P x s := by
  rw [execWith, form]

end Sys2Proof.Laws
end

