-- ==== Sys2Proof/Laws/PerInstr.lean ====
section
/-! SUPPORT. The per-instruction family `OpcodeFixesLength`: the encoder writes as many bytes as the opcode
byte alone says (30_encoding.md R62, R77). One lemma per constructor of `Instr`. -/

namespace Sys2Proof.Laws.OpcodeFixesLength

/-- The encoding is as long as the opcode byte says. -/
def Statement (i : Instr) : Prop := i.wellFormed = true → (encode i).length = i.length

theorem nop : Statement .nop := fun _ => rfl
theorem ldBcNn (nn : Word) : Statement (.ldBcNn nn) := fun _ => rfl
theorem ldIndBcA : Statement .ldIndBcA := fun _ => rfl
theorem incBc : Statement .incBc := fun _ => rfl
theorem incB : Statement .incB := fun _ => rfl
theorem decB : Statement .decB := fun _ => rfl
theorem ldBN (n : Byte) : Statement (.ldBN n) := fun _ => rfl
theorem rlcA : Statement .rlcA := fun _ => rfl
theorem addHlBc : Statement .addHlBc := fun _ => rfl
theorem ldAIndBc : Statement .ldAIndBc := fun _ => rfl
theorem decBc : Statement .decBc := fun _ => rfl
theorem incC : Statement .incC := fun _ => rfl
theorem decC : Statement .decC := fun _ => rfl
theorem ldCN (n : Byte) : Statement (.ldCN n) := fun _ => rfl
theorem rrcA : Statement .rrcA := fun _ => rfl
theorem ldDeNn (nn : Word) : Statement (.ldDeNn nn) := fun _ => rfl
theorem ldIndDeA : Statement .ldIndDeA := fun _ => rfl
theorem incDe : Statement .incDe := fun _ => rfl
theorem incD : Statement .incD := fun _ => rfl
theorem decD : Statement .decD := fun _ => rfl
theorem ldDN (n : Byte) : Statement (.ldDN n) := fun _ => rfl
theorem rlA : Statement .rlA := fun _ => rfl
theorem jr (e : Byte) : Statement (.jr e) := fun _ => rfl
theorem addHlDe : Statement .addHlDe := fun _ => rfl
theorem ldAIndDe : Statement .ldAIndDe := fun _ => rfl
theorem decDe : Statement .decDe := fun _ => rfl
theorem incE : Statement .incE := fun _ => rfl
theorem decE : Statement .decE := fun _ => rfl
theorem ldEN (n : Byte) : Statement (.ldEN n) := fun _ => rfl
theorem jrNz (e : Byte) : Statement (.jrNz e) := fun _ => rfl
theorem ldHlNn (nn : Word) : Statement (.ldHlNn nn) := fun _ => rfl
theorem ldHliA : Statement .ldHliA := fun _ => rfl
theorem incHl : Statement .incHl := fun _ => rfl
theorem incH : Statement .incH := fun _ => rfl
theorem decH : Statement .decH := fun _ => rfl
theorem ldHN (n : Byte) : Statement (.ldHN n) := fun _ => rfl
theorem jrZ (e : Byte) : Statement (.jrZ e) := fun _ => rfl
theorem addHlHl : Statement .addHlHl := fun _ => rfl
theorem ldAHli : Statement .ldAHli := fun _ => rfl
theorem decHl : Statement .decHl := fun _ => rfl
theorem incL : Statement .incL := fun _ => rfl
theorem decL : Statement .decL := fun _ => rfl
theorem ldLN (n : Byte) : Statement (.ldLN n) := fun _ => rfl
theorem jrNc (e : Byte) : Statement (.jrNc e) := fun _ => rfl
theorem ldSpNn (nn : Word) : Statement (.ldSpNn nn) := fun _ => rfl
theorem ldHldA : Statement .ldHldA := fun _ => rfl
theorem incSp : Statement .incSp := fun _ => rfl
theorem incIndHl : Statement .incIndHl := fun _ => rfl
theorem decIndHl : Statement .decIndHl := fun _ => rfl
theorem ldIndHlN (n : Byte) : Statement (.ldIndHlN n) := fun _ => rfl
theorem scf : Statement .scf := fun _ => rfl
theorem jrC (e : Byte) : Statement (.jrC e) := fun _ => rfl
theorem addHlSp : Statement .addHlSp := fun _ => rfl
theorem ldAHld : Statement .ldAHld := fun _ => rfl
theorem decSp : Statement .decSp := fun _ => rfl
theorem incA : Statement .incA := fun _ => rfl
theorem decA : Statement .decA := fun _ => rfl
theorem ldAN (n : Byte) : Statement (.ldAN n) := fun _ => rfl
theorem ccf : Statement .ccf := fun _ => rfl
theorem ldBB : Statement .ldBB := fun _ => rfl
theorem ldBC : Statement .ldBC := fun _ => rfl
theorem ldBD : Statement .ldBD := fun _ => rfl
theorem ldBE : Statement .ldBE := fun _ => rfl
theorem ldBH : Statement .ldBH := fun _ => rfl
theorem ldBL : Statement .ldBL := fun _ => rfl
theorem ldBIndHl : Statement .ldBIndHl := fun _ => rfl
theorem ldBA : Statement .ldBA := fun _ => rfl
theorem ldCB : Statement .ldCB := fun _ => rfl
theorem ldCC : Statement .ldCC := fun _ => rfl
theorem ldCD : Statement .ldCD := fun _ => rfl
theorem ldCE : Statement .ldCE := fun _ => rfl
theorem ldCH : Statement .ldCH := fun _ => rfl
theorem ldCL : Statement .ldCL := fun _ => rfl
theorem ldCIndHl : Statement .ldCIndHl := fun _ => rfl
theorem ldCA : Statement .ldCA := fun _ => rfl
theorem ldDB : Statement .ldDB := fun _ => rfl
theorem ldDC : Statement .ldDC := fun _ => rfl
theorem ldDD : Statement .ldDD := fun _ => rfl
theorem ldDE : Statement .ldDE := fun _ => rfl
theorem ldDH : Statement .ldDH := fun _ => rfl
theorem ldDL : Statement .ldDL := fun _ => rfl
theorem ldDIndHl : Statement .ldDIndHl := fun _ => rfl
theorem ldDA : Statement .ldDA := fun _ => rfl
theorem ldEB : Statement .ldEB := fun _ => rfl
theorem ldEC : Statement .ldEC := fun _ => rfl
theorem ldED : Statement .ldED := fun _ => rfl
theorem ldEE : Statement .ldEE := fun _ => rfl
theorem ldEH : Statement .ldEH := fun _ => rfl
theorem ldEL : Statement .ldEL := fun _ => rfl
theorem ldEIndHl : Statement .ldEIndHl := fun _ => rfl
theorem ldEA : Statement .ldEA := fun _ => rfl
theorem ldHB : Statement .ldHB := fun _ => rfl
theorem ldHC : Statement .ldHC := fun _ => rfl
theorem ldHD : Statement .ldHD := fun _ => rfl
theorem ldHE : Statement .ldHE := fun _ => rfl
theorem ldHH : Statement .ldHH := fun _ => rfl
theorem ldHL : Statement .ldHL := fun _ => rfl
theorem ldHIndHl : Statement .ldHIndHl := fun _ => rfl
theorem ldHA : Statement .ldHA := fun _ => rfl
theorem ldLB : Statement .ldLB := fun _ => rfl
theorem ldLC : Statement .ldLC := fun _ => rfl
theorem ldLD : Statement .ldLD := fun _ => rfl
theorem ldLE : Statement .ldLE := fun _ => rfl
theorem ldLH : Statement .ldLH := fun _ => rfl
theorem ldLL : Statement .ldLL := fun _ => rfl
theorem ldLIndHl : Statement .ldLIndHl := fun _ => rfl
theorem ldLA : Statement .ldLA := fun _ => rfl
theorem ldIndHlB : Statement .ldIndHlB := fun _ => rfl
theorem ldIndHlC : Statement .ldIndHlC := fun _ => rfl
theorem ldIndHlD : Statement .ldIndHlD := fun _ => rfl
theorem ldIndHlE : Statement .ldIndHlE := fun _ => rfl
theorem ldIndHlH : Statement .ldIndHlH := fun _ => rfl
theorem ldIndHlL : Statement .ldIndHlL := fun _ => rfl
theorem ldIndHlA : Statement .ldIndHlA := fun _ => rfl
theorem ldAB : Statement .ldAB := fun _ => rfl
theorem ldAC : Statement .ldAC := fun _ => rfl
theorem ldAD : Statement .ldAD := fun _ => rfl
theorem ldAE : Statement .ldAE := fun _ => rfl
theorem ldAH : Statement .ldAH := fun _ => rfl
theorem ldAL : Statement .ldAL := fun _ => rfl
theorem ldAIndHl : Statement .ldAIndHl := fun _ => rfl
theorem ldAA : Statement .ldAA := fun _ => rfl
theorem addAB : Statement .addAB := fun _ => rfl
theorem addAC : Statement .addAC := fun _ => rfl
theorem addAD : Statement .addAD := fun _ => rfl
theorem addAE : Statement .addAE := fun _ => rfl
theorem addAH : Statement .addAH := fun _ => rfl
theorem addAL : Statement .addAL := fun _ => rfl
theorem addAIndHl : Statement .addAIndHl := fun _ => rfl
theorem addAA : Statement .addAA := fun _ => rfl
theorem popBc : Statement .popBc := fun _ => rfl
theorem pushBc : Statement .pushBc := fun _ => rfl
theorem popDe : Statement .popDe := fun _ => rfl
theorem pushDe : Statement .pushDe := fun _ => rfl
theorem popHl : Statement .popHl := fun _ => rfl
theorem pushHl : Statement .pushHl := fun _ => rfl
theorem popAf : Statement .popAf := fun _ => rfl
theorem pushAf : Statement .pushAf := fun _ => rfl

/-- Every unassigned byte is one byte long (R62). -/
theorem unassigned_format : ∀ op : Byte, assigned op = false → formatOf op = .op := by
  decide

theorem unassigned (op : Byte) : Statement (.unassigned op) := fun ok => by
  have free : assigned op = false := by simpa [Instr.wellFormed] using ok
  simp [encode, Instr.length, Instr.operandBytes, Instr.opcode, unassigned_format op free, Format.length]

end Sys2Proof.Laws.OpcodeFixesLength
end

