-- ==== Sys2Proof/Laws/Step.lean ====
section
/-! SUPPORT. What a step can do to the memory and to the record of accesses, said once: it issues byte reads
and byte writes and does nothing else to either. Invariants of memory and record follow from
`step_keeps`. -/

namespace Sys2Proof.Laws

open Machine

variable {σ : Type}

/-- A property of states that looks at memory and record only, and that byte reads and byte writes keep. -/
structure PortStable (port : Port σ) (P : State σ → Prop) : Prop where
  congr : ∀ s t : State σ, t.mem = s.mem → t.accesses = s.accesses → P s → P t
  read : ∀ (s : State σ) (a : Word), P s → P (s.readByte port a).2
  write : ∀ (s : State σ) (a : Word) (v : Byte), P s → P (s.writeByte port a v)

variable {port : Port σ} {P : State σ → Prop}

/-- Such a property is kept by reading a word. -/
theorem PortStable.readWord (stable : PortStable port P) (s : State σ) (a : Word) (holds : P s) :
    P (s.readWord port a).2 :=
  stable.read _ _ (stable.read _ _ holds)

/-- Such a property is kept by writing a word. -/
theorem PortStable.writeWord (stable : PortStable port P) (s : State σ) (a v : Word) (holds : P s) :
    P (s.writeWord port a v) :=
  stable.write _ _ _ (stable.write _ _ _ holds)

/-- Such a property is kept by reading a location. -/
theorem PortStable.getLoc (stable : PortStable port P) (s : State σ) (x : Loc) (holds : P s) :
    P (s.getLoc port x).2 := by
  cases x with
  | reg r => exact holds
  | hlInd => exact stable.read _ _ holds

/-- Such a property is kept by writing a location. -/
theorem PortStable.setLoc (stable : PortStable port P) (s : State σ) (x : Loc) (v : Byte) (holds : P s) :
    P (s.setLoc port x v) := by
  cases x with
  | reg r => exact stable.congr s _ (by simp [State.setLoc_eq]) (by simp [State.setLoc_eq]) holds
  | hlInd => exact stable.write _ _ _ holds

/-- Such a property is kept by the shared operation of every form. -/
theorem PortStable.meaning {Q : Params σ} (stable : PortStable Q.port P) (x : Form) (s t : State σ)
    (holds : P s) (next : meaningOfForm Q x s = .next t) : P t := by
  have done : ∀ k u, P u → finish Q k u = .next t → P t := by
    intro k u before eq
    rw [finish_eq, Host.Outcome.next.injEq] at eq
    subst eq
    exact stable.congr u _ rfl rfl before
  have after : ∀ k u v, P u → v.mem = u.mem → v.accesses = u.accesses → finish Q k v = .next t → P t :=
    fun k u v before mem acc => done k v (stable.congr u v mem acc before)
  cases x with
  | nop => exact done _ _ holds next
  | ldR16Nn p nn => exact after _ s _ holds (by simp) (by simp) next
  | ldIndBcA => exact done _ _ (stable.write _ _ _ holds) next
  | ldIndDeA => exact done _ _ (stable.write _ _ _ holds) next
  | ldHliA => exact after _ _ _ (stable.write s (s.getPair .hl) (s.getReg .a) holds) (by simp) (by simp) next
  | ldHldA => exact after _ _ _ (stable.write s (s.getPair .hl) (s.getReg .a) holds) (by simp) (by simp) next
  | ldAIndBc => exact after _ _ _ (stable.read s (s.getPair .bc) holds) (by simp) (by simp) next
  | ldAIndDe => exact after _ _ _ (stable.read s (s.getPair .de) holds) (by simp) (by simp) next
  | ldAHli => exact after _ _ _ (stable.read s (s.getPair .hl) holds) (by simp) (by simp) next
  | ldAHld => exact after _ _ _ (stable.read s (s.getPair .hl) holds) (by simp) (by simp) next
  | incR16 p => exact after _ s _ holds (by simp) (by simp) next
  | decR16 p => exact after _ s _ holds (by simp) (by simp) next
  | addHlR16 p => exact after _ s _ holds (by simp [State.setNHC]) (by simp [State.setNHC]) next
  | incR r =>
    exact after _ _ _ (stable.setLoc _ (.reg r) ((s.getLoc Q.port (.reg r)).1 + 1) (stable.getLoc s (.reg r) holds))
      (by simp [State.setZNH]) (by simp [State.setZNH]) next
  | incHlInd =>
    exact after _ _ _ (stable.setLoc _ .hlInd ((s.getLoc Q.port .hlInd).1 + 1) (stable.getLoc s .hlInd holds))
      (by simp [State.setZNH]) (by simp [State.setZNH]) next
  | decR r =>
    exact after _ _ _ (stable.setLoc _ (.reg r) ((s.getLoc Q.port (.reg r)).1 - 1) (stable.getLoc s (.reg r) holds))
      (by simp [State.setZNH]) (by simp [State.setZNH]) next
  | decHlInd =>
    exact after _ _ _ (stable.setLoc _ .hlInd ((s.getLoc Q.port .hlInd).1 - 1) (stable.getLoc s .hlInd holds))
      (by simp [State.setZNH]) (by simp [State.setZNH]) next
  | ldRN r n => exact done _ _ (stable.setLoc s (.reg r) n holds) next
  | ldHlN n => exact done _ _ (stable.setLoc s .hlInd n holds) next
  | rlcA => exact after _ s _ holds (by simp [State.setZNH]) (by simp [State.setZNH]) next
  | rrcA => exact after _ s _ holds (by simp [State.setZNH]) (by simp [State.setZNH]) next
  | rlA => exact after _ s _ holds (by simp [State.setZNH]) (by simp [State.setZNH]) next
  | jr e => exact after .jr s (s.setPc (s.pc + sext16 e)) holds rfl rfl next
  | jrCc x e =>
    simp only [meaningOfForm, jumpIf] at next
    split at next
    · exact after .jrCcTaken s (s.setPc (s.pc + sext16 e)) holds rfl rfl next
    · exact done _ _ holds next
  | scf => exact after _ s _ holds (by simp [State.setNHC]) (by simp [State.setNHC]) next
  | ccf => exact after _ s _ holds (by simp [State.setNHC]) (by simp [State.setNHC]) next
  | ldRR dst src =>
    exact done _ _ (stable.setLoc _ (.reg dst) _ (stable.getLoc s (.reg src) holds)) next
  | ldRHlInd dst =>
    exact done _ _ (stable.setLoc _ (.reg dst) _ (stable.getLoc s .hlInd holds)) next
  | ldHlIndR src =>
    exact done _ _ (stable.setLoc _ .hlInd _ (stable.getLoc s (.reg src) holds)) next
  | addAR src =>
    exact after _ _ _ (stable.getLoc s (.reg src) holds) (by simp [State.setZNH]) (by simp [State.setZNH]) next
  | addAHlInd =>
    exact after _ _ _ (stable.getLoc s .hlInd holds) (by simp [State.setZNH]) (by simp [State.setZNH]) next
  | push p =>
    exact done _ _ (stable.writeWord _ _ _ (stable.congr s (s.setSp (s.sp - 2)) rfl rfl holds)) next
  | pop p =>
    have word := stable.readWord s s.sp holds
    cases p with
    | af => exact after _ _ _ word (by simp) (by simp) next
    | bc => exact after _ _ _ word (by simp) (by simp) next
    | de => exact after _ _ _ word (by simp) (by simp) next
    | hl => exact after _ _ _ word (by simp) (by simp) next
  | unassigned op =>
    simp only [meaningOfForm, raiseUnassigned_eq, Host.Outcome.next.injEq] at next
    subst next
    exact stable.congr s _ rfl rfl holds

/-- Such a property is kept by fetching an instruction. -/
theorem PortStable.fetch (stable : PortStable port P) (s : State σ) (holds : P s) : P (s.fetchInstr port).2 := by
  have byte : ∀ u : State σ, P u → P (u.fetch8 port).2 :=
    fun u before => stable.congr (u.readByte port u.pc).2 _ rfl rfl (stable.read u u.pc before)
  unfold State.fetchInstr
  dsimp only
  split
  · exact byte _ holds
  · exact byte _ (byte _ holds)
  · exact byte _ (byte _ holds)
  · exact byte _ (byte _ (byte _ holds))

/-- Such a property is kept by every instruction, under every parameters. -/
theorem execWith_keeps {Q : Params σ} (stable : PortStable Q.port P) (i : Instr) (s t : State σ)
    (holds : P s) (next : execWith Q i s = .next t) : P t :=
  stable.meaning i.form s t holds next

/-- Such a property, holding when the step's record is still empty, holds after the step. -/
theorem stepWith_keeps {Q : Params σ} (stable : PortStable Q.port P) (s t : State σ)
    (holds : P (s.withRecord [])) (next : stepWith Q s = .next t) : P t :=
  execWith_keeps stable _ _ t (stable.fetch _ holds) next

/-- `exec` and `step` are the parametric ones at the defaults, so that what those do these do. -/
theorem exec_eq_execWith (i : Instr) (s : State) : exec i s = execWith defaults i s :=
  exec_eq_meaningOfForm i s

theorem step_eq_stepWith (s : State) : step s = stepWith defaults s := by
  rw [step_eq, exec_eq_execWith]
  rfl

/-! ### The record of accesses -/

/-- The last write in one record after another. -/
theorem lastWritten_append (a : Word) (v : Byte) (xs ys : List Access) :
    lastWritten a v (xs ++ ys) = lastWritten a (lastWritten a v xs) ys := by
  induction xs generalizing v with
  | nil => rfl
  | cons x rest ih => cases x <;> simp [lastWritten, ih]

/-- One record after another fits a port when the second fits what the first leaves. -/
theorem recordFits_append (m : Word → Byte) (xs ys : List Access) :
    RecordFits m (xs ++ ys) ↔
      RecordFits m xs ∧ RecordFits (fun a => lastWritten a (m a) xs) ys := by
  induction xs generalizing m with
  | nil => simp [RecordFits, lastWritten]
  | cons x rest ih =>
    cases x with
    | read a v => simp [RecordFits, lastWritten, ih, and_assoc]
    | write a v => simp only [RecordFits, lastWritten, List.cons_append, ih]

end Sys2Proof.Laws
end

