-- ==== Sys2Proof/Tests/Slice0.lean ====
section
/-! SUPPORT. Tests with expected results from spec/ (opcode words from 30_encoding.md R70 and R71, steps from
the worked vectors of 95_test_vectors.md), and a witness for each statement that has hypotheses. -/

namespace Sys2Proof.Tests

open Machine

/-! ### WellFormed: the ill-formed terms it refuses (30_encoding.md R75) -/

theorem test_wellFormed_refuses_an_assigned_byte_as_unassigned :
    (Instr.unassigned 0x00#8).wellFormed = false ∧ (Instr.unassigned 0x87#8).wellFormed = false ∧
      (Instr.unassigned 0xF5#8).wellFormed = false := by decide

theorem test_wellFormed_takes_the_unassigned_bytes_beside_them :
    (Instr.unassigned 0x08#8).wellFormed = true ∧ (Instr.unassigned 0x76#8).wellFormed = true ∧
      (Instr.unassigned 0x88#8).wellFormed = true ∧ (Instr.unassigned 0xFF#8).wellFormed = true := by
  decide

/-! ### Decoding: every assigned byte of the grid R71, one theorem a row of it -/

theorem test_decode_row_0 :
    decodeTableWord 8 0x00 = some .nop ∧
    decodeTableWord 8 0x01 = some (.ldBcNn 0) ∧
    decodeTableWord 8 0x02 = some .ldIndBcA ∧
    decodeTableWord 8 0x03 = some .incBc ∧
    decodeTableWord 8 0x04 = some .incB ∧
    decodeTableWord 8 0x05 = some .decB ∧
    decodeTableWord 8 0x06 = some (.ldBN 0) ∧
    decodeTableWord 8 0x07 = some .rlcA ∧
    decodeTableWord 8 0x09 = some .addHlBc ∧
    decodeTableWord 8 0x0A = some .ldAIndBc ∧
    decodeTableWord 8 0x0B = some .decBc ∧
    decodeTableWord 8 0x0C = some .incC ∧
    decodeTableWord 8 0x0D = some .decC ∧
    decodeTableWord 8 0x0E = some (.ldCN 0) ∧
    decodeTableWord 8 0x0F = some .rrcA := by
  decide

theorem test_decode_row_1 :
    decodeTableWord 8 0x11 = some (.ldDeNn 0) ∧
    decodeTableWord 8 0x12 = some .ldIndDeA ∧
    decodeTableWord 8 0x13 = some .incDe ∧
    decodeTableWord 8 0x14 = some .incD ∧
    decodeTableWord 8 0x15 = some .decD ∧
    decodeTableWord 8 0x16 = some (.ldDN 0) ∧
    decodeTableWord 8 0x17 = some .rlA ∧
    decodeTableWord 8 0x18 = some (.jr 0) ∧
    decodeTableWord 8 0x19 = some .addHlDe ∧
    decodeTableWord 8 0x1A = some .ldAIndDe ∧
    decodeTableWord 8 0x1B = some .decDe ∧
    decodeTableWord 8 0x1C = some .incE ∧
    decodeTableWord 8 0x1D = some .decE ∧
    decodeTableWord 8 0x1E = some (.ldEN 0) := by
  decide

theorem test_decode_row_2 :
    decodeTableWord 8 0x20 = some (.jrNz 0) ∧
    decodeTableWord 8 0x21 = some (.ldHlNn 0) ∧
    decodeTableWord 8 0x22 = some .ldHliA ∧
    decodeTableWord 8 0x23 = some .incHl ∧
    decodeTableWord 8 0x24 = some .incH ∧
    decodeTableWord 8 0x25 = some .decH ∧
    decodeTableWord 8 0x26 = some (.ldHN 0) ∧
    decodeTableWord 8 0x28 = some (.jrZ 0) ∧
    decodeTableWord 8 0x29 = some .addHlHl ∧
    decodeTableWord 8 0x2A = some .ldAHli ∧
    decodeTableWord 8 0x2B = some .decHl ∧
    decodeTableWord 8 0x2C = some .incL ∧
    decodeTableWord 8 0x2D = some .decL ∧
    decodeTableWord 8 0x2E = some (.ldLN 0) := by
  decide

theorem test_decode_row_3 :
    decodeTableWord 8 0x30 = some (.jrNc 0) ∧
    decodeTableWord 8 0x31 = some (.ldSpNn 0) ∧
    decodeTableWord 8 0x32 = some .ldHldA ∧
    decodeTableWord 8 0x33 = some .incSp ∧
    decodeTableWord 8 0x34 = some .incIndHl ∧
    decodeTableWord 8 0x35 = some .decIndHl ∧
    decodeTableWord 8 0x36 = some (.ldIndHlN 0) ∧
    decodeTableWord 8 0x37 = some .scf ∧
    decodeTableWord 8 0x38 = some (.jrC 0) ∧
    decodeTableWord 8 0x39 = some .addHlSp ∧
    decodeTableWord 8 0x3A = some .ldAHld ∧
    decodeTableWord 8 0x3B = some .decSp ∧
    decodeTableWord 8 0x3C = some .incA ∧
    decodeTableWord 8 0x3D = some .decA ∧
    decodeTableWord 8 0x3E = some (.ldAN 0) ∧
    decodeTableWord 8 0x3F = some .ccf := by
  decide

theorem test_decode_row_4 :
    decodeTableWord 8 0x40 = some .ldBB ∧
    decodeTableWord 8 0x41 = some .ldBC ∧
    decodeTableWord 8 0x42 = some .ldBD ∧
    decodeTableWord 8 0x43 = some .ldBE ∧
    decodeTableWord 8 0x44 = some .ldBH ∧
    decodeTableWord 8 0x45 = some .ldBL ∧
    decodeTableWord 8 0x46 = some .ldBIndHl ∧
    decodeTableWord 8 0x47 = some .ldBA ∧
    decodeTableWord 8 0x48 = some .ldCB ∧
    decodeTableWord 8 0x49 = some .ldCC ∧
    decodeTableWord 8 0x4A = some .ldCD ∧
    decodeTableWord 8 0x4B = some .ldCE ∧
    decodeTableWord 8 0x4C = some .ldCH ∧
    decodeTableWord 8 0x4D = some .ldCL ∧
    decodeTableWord 8 0x4E = some .ldCIndHl ∧
    decodeTableWord 8 0x4F = some .ldCA := by
  decide

theorem test_decode_row_5 :
    decodeTableWord 8 0x50 = some .ldDB ∧
    decodeTableWord 8 0x51 = some .ldDC ∧
    decodeTableWord 8 0x52 = some .ldDD ∧
    decodeTableWord 8 0x53 = some .ldDE ∧
    decodeTableWord 8 0x54 = some .ldDH ∧
    decodeTableWord 8 0x55 = some .ldDL ∧
    decodeTableWord 8 0x56 = some .ldDIndHl ∧
    decodeTableWord 8 0x57 = some .ldDA ∧
    decodeTableWord 8 0x58 = some .ldEB ∧
    decodeTableWord 8 0x59 = some .ldEC ∧
    decodeTableWord 8 0x5A = some .ldED ∧
    decodeTableWord 8 0x5B = some .ldEE ∧
    decodeTableWord 8 0x5C = some .ldEH ∧
    decodeTableWord 8 0x5D = some .ldEL ∧
    decodeTableWord 8 0x5E = some .ldEIndHl ∧
    decodeTableWord 8 0x5F = some .ldEA := by
  decide

theorem test_decode_row_6 :
    decodeTableWord 8 0x60 = some .ldHB ∧
    decodeTableWord 8 0x61 = some .ldHC ∧
    decodeTableWord 8 0x62 = some .ldHD ∧
    decodeTableWord 8 0x63 = some .ldHE ∧
    decodeTableWord 8 0x64 = some .ldHH ∧
    decodeTableWord 8 0x65 = some .ldHL ∧
    decodeTableWord 8 0x66 = some .ldHIndHl ∧
    decodeTableWord 8 0x67 = some .ldHA ∧
    decodeTableWord 8 0x68 = some .ldLB ∧
    decodeTableWord 8 0x69 = some .ldLC ∧
    decodeTableWord 8 0x6A = some .ldLD ∧
    decodeTableWord 8 0x6B = some .ldLE ∧
    decodeTableWord 8 0x6C = some .ldLH ∧
    decodeTableWord 8 0x6D = some .ldLL ∧
    decodeTableWord 8 0x6E = some .ldLIndHl ∧
    decodeTableWord 8 0x6F = some .ldLA := by
  decide

theorem test_decode_row_7 :
    decodeTableWord 8 0x70 = some .ldIndHlB ∧
    decodeTableWord 8 0x71 = some .ldIndHlC ∧
    decodeTableWord 8 0x72 = some .ldIndHlD ∧
    decodeTableWord 8 0x73 = some .ldIndHlE ∧
    decodeTableWord 8 0x74 = some .ldIndHlH ∧
    decodeTableWord 8 0x75 = some .ldIndHlL ∧
    decodeTableWord 8 0x77 = some .ldIndHlA ∧
    decodeTableWord 8 0x78 = some .ldAB ∧
    decodeTableWord 8 0x79 = some .ldAC ∧
    decodeTableWord 8 0x7A = some .ldAD ∧
    decodeTableWord 8 0x7B = some .ldAE ∧
    decodeTableWord 8 0x7C = some .ldAH ∧
    decodeTableWord 8 0x7D = some .ldAL ∧
    decodeTableWord 8 0x7E = some .ldAIndHl ∧
    decodeTableWord 8 0x7F = some .ldAA := by
  decide

theorem test_decode_row_8 :
    decodeTableWord 8 0x80 = some .addAB ∧
    decodeTableWord 8 0x81 = some .addAC ∧
    decodeTableWord 8 0x82 = some .addAD ∧
    decodeTableWord 8 0x83 = some .addAE ∧
    decodeTableWord 8 0x84 = some .addAH ∧
    decodeTableWord 8 0x85 = some .addAL ∧
    decodeTableWord 8 0x86 = some .addAIndHl ∧
    decodeTableWord 8 0x87 = some .addAA := by
  decide

theorem test_decode_row_C :
    decodeTableWord 8 0xC1 = some .popBc ∧
    decodeTableWord 8 0xC5 = some .pushBc := by
  decide

theorem test_decode_row_D :
    decodeTableWord 8 0xD1 = some .popDe ∧
    decodeTableWord 8 0xD5 = some .pushDe := by
  decide

theorem test_decode_row_E :
    decodeTableWord 8 0xE1 = some .popHl ∧
    decodeTableWord 8 0xE5 = some .pushHl := by
  decide

theorem test_decode_row_F :
    decodeTableWord 8 0xF1 = some .popAf ∧
    decodeTableWord 8 0xF5 = some .pushAf := by
  decide

/-- Operand bytes, the low one first (R62, R69: bytes `01 34 12` are `LD BC,0x1234`). -/
theorem test_decode_operand_bytes :
    decode [0x01#8, 0x34#8, 0x12#8, 0x00#8] = .ok (.ldBcNn 0x1234#16) [0x00#8] ∧
    decode [0x06#8, 0x05#8] = .ok (.ldBN 0x05#8) [] ∧
    decode [0x18#8, 0xFE#8] = .ok (.jr 0xFE#8) [] ∧
    decodeTableWord 24 0x123401 = some (.ldBcNn 0x1234#16) ∧
    decodeTableWord 8 0x123401 = some (.ldBcNn 0x0000#16) := by decide

/-- A list too short for its first byte is rejected by name, and 0xCB takes itself alone (R77). -/
theorem test_decode_rejects_short_lists :
    decode [] = .rejected .noBytes ∧ decode [0x31#8, 0x00#8] = .rejected (.missingOperand 0x31#8) ∧
    decode [0x20#8] = .rejected (.missingOperand 0x20#8) ∧
    decode [0xCB#8, 0x07#8] = .ok (.unassigned 0xCB#8) [0x07#8] := by decide

/-- The encoder writes the bytes of the spec's programs P2 and P3 (95_test_vectors.md 3.2, 3.3). -/
theorem test_encode_program_words :
    encode (.ldHlNn 0xC000#16) = [0x21#8, 0x00#8, 0xC0#8] ∧ encode (.jrNz 0xFA#8) = [0x20#8, 0xFA#8] ∧
    encode .pushBc = [0xC5#8] ∧ encode .popHl = [0xE1#8] ∧ encode .addHlBc = [0x09#8] ∧
    encode .ldAH = [0x7C#8] ∧ encode .rlA = [0x17#8] := by decide

/-! ### Single steps -/

/-- What a test sees of a step: the registers it names, F, SP, PC, and what was reported and issued. -/
structure Seen where
  regs : List Byte
  f : Byte
  sp : Word
  pc : Word
  report : Report
  accesses : List Access
  deriving DecidableEq, Repr

/-- What is seen of the step from a state. -/
def stepped (s : State) (look : State → List Byte) : Option Seen :=
  match step s with
  | .next t => some ⟨look t, t.f, t.sp, t.pc, t.report, t.accesses⟩
  | .fault _ | .refused _ => none

/-- 2.1, row 1: `01 34 12`. -/
theorem test_step_ldBcNn :
    stepped { State.reset with pc := 0x0100, mem := [(0x0100, 0x01#8), (0x0101, 0x34#8), (0x0102, 0x12#8)] }
      (fun t => [t.b, t.c]) =
      some ⟨[0x12, 0x34], 0x00, 0x0000, 0x0103, .done 12, [.read 0x0100 0x01, .read 0x0101 0x34, .read 0x0102 0x12]⟩ := by
  decide

/-- 2.1, row 4: `31 FE FF`. -/
theorem test_step_ldSpNn :
    stepped { State.reset with pc := 0x0100, mem := [(0x0100, 0x31#8), (0x0101, 0xFE#8), (0x0102, 0xFF#8)] }
      (fun _ => []) =
      some ⟨[], 0x00, 0xFFFE, 0x0103, .done 12, [.read 0x0100 0x31, .read 0x0101 0xFE, .read 0x0102 0xFF]⟩ := by
  decide

/-- 2.1, row 9: `36 AB`. -/
theorem test_step_ldIndHlN :
    stepped { State.reset with pc := 0x0100, h := 0x01, l := 0x01, mem := [(0x0100, 0x36#8), (0x0101, 0xAB#8)] }
      (fun _ => []) =
      some ⟨[], 0x00, 0x0000, 0x0102, .done 12, [.read 0x0100 0x36, .read 0x0101 0xAB, .write 0x0101 0xAB]⟩ := by
  decide

/-- 2.1, row 10: `01 34 12`. -/
theorem test_step_ldBcNn_again :
    stepped { State.reset with pc := 0xFFFE, mem := [(0x0000, 0x12#8), (0xFFFE, 0x01#8), (0xFFFF, 0x34#8)] }
      (fun t => [t.b, t.c]) =
      some ⟨[0x12, 0x34], 0x00, 0x0000, 0x0001, .done 12, [.read 0xFFFE 0x01, .read 0xFFFF 0x34, .read 0x0000 0x12]⟩ := by
  decide

/-- 2.1, row 11: `06 77`. -/
theorem test_step_ldBN :
    stepped { State.reset with pc := 0xFFFF, mem := [(0x0000, 0x77#8), (0xFFFF, 0x06#8)] }
      (fun t => [t.b]) =
      some ⟨[0x77], 0x00, 0x0000, 0x0001, .done 8, [.read 0xFFFF 0x06, .read 0x0000 0x77]⟩ := by
  decide

/-- 2.2, row 2: `04`. -/
theorem test_step_incB :
    stepped { State.reset with pc := 0x0100, b := 0xFF, mem := [(0x0100, 0x04#8)] }
      (fun t => [t.b]) =
      some ⟨[0x00], 0xA0, 0x0000, 0x0101, .done 4, [.read 0x0100 0x04]⟩ := by
  decide

/-- 2.2, row 5: `2C`. -/
theorem test_step_incL :
    stepped { State.reset with pc := 0x0100, f := 0x40, l := 0x7F, mem := [(0x0100, 0x2C#8)] }
      (fun t => [t.l]) =
      some ⟨[0x80], 0x20, 0x0000, 0x0101, .done 4, [.read 0x0100 0x2C]⟩ := by
  decide

/-- 2.2, row 7: `05`. -/
theorem test_step_decB :
    stepped { State.reset with pc := 0x0100, f := 0x10, mem := [(0x0100, 0x05#8)] }
      (fun t => [t.b]) =
      some ⟨[0xFF], 0x70, 0x0000, 0x0101, .done 4, [.read 0x0100 0x05]⟩ := by
  decide

/-- 2.2, row 10: `34`. -/
theorem test_step_incIndHl :
    stepped { State.reset with pc := 0x0100, f := 0x10, h := 0xC0, mem := [(0x0100, 0x34#8), (0xC000, 0xFF#8)] }
      (fun _ => []) =
      some ⟨[], 0xB0, 0x0000, 0x0101, .done 12, [.read 0x0100 0x34, .read 0xC000 0xFF, .write 0xC000 0x00]⟩ := by
  decide

/-- 2.2, row 11: `35`. -/
theorem test_step_decIndHl :
    stepped { State.reset with pc := 0x0100, h := 0xC0, mem := [(0x0100, 0x35#8)] }
      (fun _ => []) =
      some ⟨[], 0x60, 0x0000, 0x0101, .done 12, [.read 0x0100 0x35, .read 0xC000 0x00, .write 0xC000 0xFF]⟩ := by
  decide

/-- 2.2, row 13: `03`. -/
theorem test_step_incBc :
    stepped { State.reset with pc := 0x0100, f := 0xF0, b := 0xFF, c := 0xFF, mem := [(0x0100, 0x03#8)] }
      (fun t => [t.b, t.c]) =
      some ⟨[0x00, 0x00], 0xF0, 0x0000, 0x0101, .done 8, [.read 0x0100 0x03]⟩ := by
  decide

/-- 2.2, row 15: `33`. -/
theorem test_step_incSp :
    stepped { State.reset with pc := 0x0100, sp := 0xFFFF, mem := [(0x0100, 0x33#8)] }
      (fun _ => []) =
      some ⟨[], 0x00, 0x0000, 0x0101, .done 8, [.read 0x0100 0x33]⟩ := by
  decide

/-- 2.2, row 17: `2B`. -/
theorem test_step_decHl :
    stepped { State.reset with pc := 0x0100, f := 0x80, h := 0x01, mem := [(0x0100, 0x2B#8)] }
      (fun t => [t.h, t.l]) =
      some ⟨[0x00, 0xFF], 0x80, 0x0000, 0x0101, .done 8, [.read 0x0100 0x2B]⟩ := by
  decide

/-- 2.2, row 18: `3B`. -/
theorem test_step_decSp :
    stepped { State.reset with pc := 0x0100, mem := [(0x0100, 0x3B#8)] }
      (fun _ => []) =
      some ⟨[], 0x00, 0xFFFF, 0x0101, .done 8, [.read 0x0100 0x3B]⟩ := by
  decide

/-- 2.3, row 1: `09`. -/
theorem test_step_addHlBc :
    stepped { State.reset with pc := 0x0100, f := 0xC0, c := 0x01, h := 0x0F, l := 0xFF, mem := [(0x0100, 0x09#8)] }
      (fun t => [t.h, t.l]) =
      some ⟨[0x10, 0x00], 0xA0, 0x0000, 0x0101, .done 8, [.read 0x0100 0x09]⟩ := by
  decide

/-- 2.3, row 5: `29`. -/
theorem test_step_addHlHl :
    stepped { State.reset with pc := 0x0100, h := 0x88, mem := [(0x0100, 0x29#8)] }
      (fun t => [t.h]) =
      some ⟨[0x10], 0x30, 0x0000, 0x0101, .done 8, [.read 0x0100 0x29]⟩ := by
  decide

/-- 2.3, row 6: `39`. -/
theorem test_step_addHlSp :
    stepped { State.reset with pc := 0x0100, l := 0x01, sp := 0xFFFF, mem := [(0x0100, 0x39#8)] }
      (fun t => [t.l]) =
      some ⟨[0x00], 0x30, 0xFFFF, 0x0101, .done 8, [.read 0x0100 0x39]⟩ := by
  decide

/-- 2.3, row 8: `80`. -/
theorem test_step_addAB :
    stepped { State.reset with pc := 0x0100, a := 0xFF, b := 0x01, mem := [(0x0100, 0x80#8)] }
      (fun t => [t.a]) =
      some ⟨[0x00], 0xB0, 0x0000, 0x0101, .done 4, [.read 0x0100 0x80]⟩ := by
  decide

/-- 2.3, row 12: `87`. -/
theorem test_step_addAA :
    stepped { State.reset with pc := 0x0100, a := 0x80, mem := [(0x0100, 0x87#8)] }
      (fun t => [t.a]) =
      some ⟨[0x00], 0x90, 0x0000, 0x0101, .done 4, [.read 0x0100 0x87]⟩ := by
  decide

/-- 2.3, row 16: `86`. -/
theorem test_step_addAIndHl :
    stepped { State.reset with pc := 0x0100, a := 0x3A, h := 0xC0, mem := [(0x0100, 0x86#8), (0xC000, 0xC6#8)] }
      (fun t => [t.a]) =
      some ⟨[0x00], 0xB0, 0x0000, 0x0101, .done 8, [.read 0x0100 0x86, .read 0xC000 0xC6]⟩ := by
  decide

/-- 2.4, row 2: `07`. -/
theorem test_step_rlcA :
    stepped { State.reset with pc := 0x0100, f := 0xF0, mem := [(0x0100, 0x07#8)] }
      (fun _ => []) =
      some ⟨[], 0x80, 0x0000, 0x0101, .done 4, [.read 0x0100 0x07]⟩ := by
  decide

/-- 2.4, row 3: `07`. -/
theorem test_step_rlcA_again :
    stepped { State.reset with pc := 0x0100, a := 0x80, mem := [(0x0100, 0x07#8)] }
      (fun t => [t.a]) =
      some ⟨[0x01], 0x10, 0x0000, 0x0101, .done 4, [.read 0x0100 0x07]⟩ := by
  decide

/-- 2.4, row 5: `0F`. -/
theorem test_step_rrcA :
    stepped { State.reset with pc := 0x0100, a := 0x91, mem := [(0x0100, 0x0F#8)] }
      (fun t => [t.a]) =
      some ⟨[0xC8], 0x10, 0x0000, 0x0101, .done 4, [.read 0x0100 0x0F]⟩ := by
  decide

/-- 2.4, row 10: `17`. -/
theorem test_step_rlA :
    stepped { State.reset with pc := 0x0100, a := 0x80, mem := [(0x0100, 0x17#8)] }
      (fun t => [t.a]) =
      some ⟨[0x00], 0x90, 0x0000, 0x0101, .done 4, [.read 0x0100 0x17]⟩ := by
  decide

/-- 2.4, row 11: `17`. -/
theorem test_step_rlA_again :
    stepped { State.reset with pc := 0x0100, f := 0x10, mem := [(0x0100, 0x17#8)] }
      (fun t => [t.a]) =
      some ⟨[0x01], 0x00, 0x0000, 0x0101, .done 4, [.read 0x0100 0x17]⟩ := by
  decide

/-- 2.5, row 1: `22`. -/
theorem test_step_ldHliA :
    stepped { State.reset with pc := 0x0100, a := 0x7E, f := 0xF0, h := 0xC0, l := 0xFF, mem := [(0x0100, 0x22#8)] }
      (fun t => [t.h, t.l]) =
      some ⟨[0xC1, 0x00], 0xF0, 0x0000, 0x0101, .done 8, [.read 0x0100 0x22, .write 0xC0FF 0x7E]⟩ := by
  decide

/-- 2.5, row 4: `2A`. -/
theorem test_step_ldAHli :
    stepped { State.reset with pc := 0x0100, h := 0xFF, l := 0xFF, mem := [(0x0100, 0x2A#8), (0xFFFF, 0x5A#8)] }
      (fun t => [t.a, t.h, t.l]) =
      some ⟨[0x5A, 0x00, 0x00], 0x00, 0x0000, 0x0101, .done 8, [.read 0x0100 0x2A, .read 0xFFFF 0x5A]⟩ := by
  decide

/-- 2.5, row 6: `32`. -/
theorem test_step_ldHldA :
    stepped { State.reset with pc := 0x0100, a := 0x77, mem := [(0x0100, 0x32#8)] }
      (fun t => [t.h, t.l]) =
      some ⟨[0xFF, 0xFF], 0x00, 0x0000, 0x0101, .done 8, [.read 0x0100 0x32, .write 0x0000 0x77]⟩ := by
  decide

/-- 2.5, row 7: `3A`. -/
theorem test_step_ldAHld :
    stepped { State.reset with pc := 0x0100, h := 0xC1, mem := [(0x0100, 0x3A#8), (0xC100, 0x99#8)] }
      (fun t => [t.a, t.h, t.l]) =
      some ⟨[0x99, 0xC0, 0xFF], 0x00, 0x0000, 0x0101, .done 8, [.read 0x0100 0x3A, .read 0xC100 0x99]⟩ := by
  decide

/-- 2.5, row 10: `12`. -/
theorem test_step_ldIndDeA :
    stepped { State.reset with pc := 0x0100, a := 0x42, d := 0xC1, mem := [(0x0100, 0x12#8)] }
      (fun _ => []) =
      some ⟨[], 0x00, 0x0000, 0x0101, .done 8, [.read 0x0100 0x12, .write 0xC100 0x42]⟩ := by
  decide

/-- 2.5, row 12: `1A`. -/
theorem test_step_ldAIndDe :
    stepped { State.reset with pc := 0x0100, d := 0xFF, e := 0xFF, mem := [(0x0100, 0x1A#8), (0xFFFF, 0x01#8)] }
      (fun t => [t.a]) =
      some ⟨[0x01], 0x00, 0x0000, 0x0101, .done 8, [.read 0x0100 0x1A, .read 0xFFFF 0x01]⟩ := by
  decide

/-- 2.6, row 5: `18 80`. -/
theorem test_step_jr :
    stepped { State.reset with pc := 0x0000, mem := [(0x0000, 0x18#8), (0x0001, 0x80#8)] }
      (fun _ => []) =
      some ⟨[], 0x00, 0x0000, 0xFF82, .done 12, [.read 0x0000 0x18, .read 0x0001 0x80]⟩ := by
  decide

/-- 2.6, row 6: `18 10`. -/
theorem test_step_jr_again :
    stepped { State.reset with pc := 0xFFFE, mem := [(0xFFFE, 0x18#8), (0xFFFF, 0x10#8)] }
      (fun _ => []) =
      some ⟨[], 0x00, 0x0000, 0x0010, .done 12, [.read 0xFFFE 0x18, .read 0xFFFF 0x10]⟩ := by
  decide

/-- 2.6, row 8: `20 FC`. -/
theorem test_step_jrNz :
    stepped { State.reset with pc := 0x0006, mem := [(0x0006, 0x20#8), (0x0007, 0xFC#8)] }
      (fun _ => []) =
      some ⟨[], 0x00, 0x0000, 0x0004, .done 12, [.read 0x0006 0x20, .read 0x0007 0xFC]⟩ := by
  decide

/-- 2.6, row 9: `20 FC`. -/
theorem test_step_jrNz_again :
    stepped { State.reset with pc := 0x0006, f := 0x80, mem := [(0x0006, 0x20#8), (0x0007, 0xFC#8)] }
      (fun _ => []) =
      some ⟨[], 0x80, 0x0000, 0x0008, .done 8, [.read 0x0006 0x20, .read 0x0007 0xFC]⟩ := by
  decide

/-- 2.6, row 12: `30 FB`. -/
theorem test_step_jrNc :
    stepped { State.reset with pc := 0x0200, f := 0xE0, mem := [(0x0200, 0x30#8), (0x0201, 0xFB#8)] }
      (fun _ => []) =
      some ⟨[], 0xE0, 0x0000, 0x01FD, .done 12, [.read 0x0200 0x30, .read 0x0201 0xFB]⟩ := by
  decide

/-- 2.6, row 15: `38 02`. -/
theorem test_step_jrC :
    stepped { State.reset with pc := 0x0200, f := 0xE0, mem := [(0x0200, 0x38#8), (0x0201, 0x02#8)] }
      (fun _ => []) =
      some ⟨[], 0xE0, 0x0000, 0x0202, .done 8, [.read 0x0200 0x38, .read 0x0201 0x02]⟩ := by
  decide

/-- 2.7, row 5: `65`. -/
theorem test_step_ldHL :
    stepped { State.reset with pc := 0x0100, h := 0x01, l := 0x02, mem := [(0x0100, 0x65#8)] }
      (fun t => [t.h]) =
      some ⟨[0x02], 0x00, 0x0000, 0x0101, .done 4, [.read 0x0100 0x65]⟩ := by
  decide

/-- 2.7, row 7: `6E`. -/
theorem test_step_ldLIndHl :
    stepped { State.reset with pc := 0x0100, h := 0xC0, mem := [(0x0100, 0x6E#8), (0xC000, 0x5A#8)] }
      (fun t => [t.l]) =
      some ⟨[0x5A], 0x00, 0x0000, 0x0101, .done 8, [.read 0x0100 0x6E, .read 0xC000 0x5A]⟩ := by
  decide

/-- 2.7, row 8: `66`. -/
theorem test_step_ldHIndHl :
    stepped { State.reset with pc := 0x0100, h := 0xC0, mem := [(0x0100, 0x66#8), (0xC000, 0x5A#8)] }
      (fun t => [t.h]) =
      some ⟨[0x5A], 0x00, 0x0000, 0x0101, .done 8, [.read 0x0100 0x66, .read 0xC000 0x5A]⟩ := by
  decide

/-- 2.7, row 11: `74`. -/
theorem test_step_ldIndHlH :
    stepped { State.reset with pc := 0x0100, h := 0xC2, l := 0x34, mem := [(0x0100, 0x74#8)] }
      (fun _ => []) =
      some ⟨[], 0x00, 0x0000, 0x0101, .done 8, [.read 0x0100 0x74, .write 0xC234 0xC2]⟩ := by
  decide

/-- 2.7, row 14: `76`. -/
theorem test_step_unassigned_76 :
    stepped { State.reset with pc := 0x0100, a := 0x01, f := 0xF0, h := 0xC0, mem := [(0x0100, 0x76#8), (0xC000, 0x55#8)] }
      (fun _ => []) =
      some ⟨[], 0xF0, 0x0000, 0x0101, .unassigned 0x76 0x0100, [.read 0x0100 0x76]⟩ := by
  decide

/-- 2.8, row 2: `37`. -/
theorem test_step_scf :
    stepped { State.reset with pc := 0x0100, f := 0xE0, mem := [(0x0100, 0x37#8)] }
      (fun _ => []) =
      some ⟨[], 0x90, 0x0000, 0x0101, .done 4, [.read 0x0100 0x37]⟩ := by
  decide

/-- 2.8, row 4: `3F`. -/
theorem test_step_ccf :
    stepped { State.reset with pc := 0x0100, f := 0xF0, mem := [(0x0100, 0x3F#8)] }
      (fun _ => []) =
      some ⟨[], 0x80, 0x0000, 0x0101, .done 4, [.read 0x0100 0x3F]⟩ := by
  decide

/-- 2.8, row 5: `3F`. -/
theorem test_step_ccf_again :
    stepped { State.reset with pc := 0x0100, f := 0x80, mem := [(0x0100, 0x3F#8)] }
      (fun _ => []) =
      some ⟨[], 0x90, 0x0000, 0x0101, .done 4, [.read 0x0100 0x3F]⟩ := by
  decide

/-- 2.9, row 3: `E5`. -/
theorem test_step_pushHl :
    stepped { State.reset with pc := 0x0100, h := 0xBE, l := 0xEF, sp := 0x0001, mem := [(0x0100, 0xE5#8)] }
      (fun _ => []) =
      some ⟨[], 0x00, 0xFFFF, 0x0101, .done 16, [.read 0x0100 0xE5, .write 0xFFFF 0xEF, .write 0x0000 0xBE]⟩ := by
  decide

/-- 2.9, row 4: `F5`. -/
theorem test_step_pushAf :
    stepped { State.reset with pc := 0x0100, a := 0x12, f := 0xB0, sp := 0xD000, mem := [(0x0100, 0xF5#8)] }
      (fun _ => []) =
      some ⟨[], 0xB0, 0xCFFE, 0x0101, .done 16, [.read 0x0100 0xF5, .write 0xCFFE 0xB0, .write 0xCFFF 0x12]⟩ := by
  decide

/-- 2.9, row 7: `E1`. -/
theorem test_step_popHl :
    stepped { State.reset with pc := 0x0100, sp := 0xFFFF, mem := [(0x0000, 0xBE#8), (0x0100, 0xE1#8), (0xFFFF, 0xEF#8)] }
      (fun t => [t.h, t.l]) =
      some ⟨[0xBE, 0xEF], 0x00, 0x0001, 0x0101, .done 12, [.read 0x0100 0xE1, .read 0xFFFF 0xEF, .read 0x0000 0xBE]⟩ := by
  decide

/-- 2.9, row 9: `F1`. -/
theorem test_step_popAf :
    stepped { State.reset with pc := 0x0100, f := 0xF0, sp := 0xCFFE, mem := [(0x0100, 0xF1#8), (0xCFFE, 0x0F#8)] }
      (fun _ => []) =
      some ⟨[], 0x00, 0xD000, 0x0101, .done 12, [.read 0x0100 0xF1, .read 0xCFFE 0x0F, .read 0xCFFF 0x00]⟩ := by
  decide

/-- 2.9, row 10: `F1`. -/
theorem test_step_popAf_again :
    stepped { State.reset with pc := 0x0100, sp := 0xCFFE, mem := [(0x0100, 0xF1#8), (0xCFFE, 0x5A#8), (0xCFFF, 0x99#8)] }
      (fun t => [t.a]) =
      some ⟨[0x99], 0x50, 0xD000, 0x0101, .done 12, [.read 0x0100 0xF1, .read 0xCFFE 0x5A, .read 0xCFFF 0x99]⟩ := by
  decide

/-- 2.10, row 19: `00`. -/
theorem test_step_nop :
    stepped { State.reset with pc := 0xFFFF, mem := [] }
      (fun _ => []) =
      some ⟨[], 0x00, 0x0000, 0x0000, .done 4, [.read 0xFFFF 0x00]⟩ := by
  decide

/-- 2.10, row 20: `27`. -/
theorem test_step_unassigned_27 :
    stepped { State.reset with pc := 0xFFFF, mem := [(0xFFFF, 0x27#8)] }
      (fun _ => []) =
      some ⟨[], 0x00, 0x0000, 0x0000, .unassigned 0x27 0xFFFF, [.read 0xFFFF 0x27]⟩ := by
  decide

/-- 00_scope.md R7, 95_test_vectors.md 2.8 and 2.9: the other parameter values, as arguments of a step (`3F` from
F0 gives 80; `F1` from low byte FF gives F = FF). -/
theorem test_other_modes :
    (match stepWith { defaults with ccfMode := .clear } { State.reset with f := 0xE0, mem := [(0, 0x3F)] } with
      | .next t => t.f
      | .fault _ | .refused _ => 0xAA) = 0x80#8 ∧
    (match stepWith { defaults with popAfMask := .keepAll }
        { State.reset with sp := 0x0010, mem := [(0, 0xF1), (0x10, 0xFF)] } with
      | .next t => t.f
      | .fault _ | .refused _ => 0xAA) = 0xFF#8 := by decide

/-- A table of costs that R171 allows and that is not the default. -/
def slowPush (k : CycKey) : Nat := if k = .push then 20 else cyc k

/-- A port of a device (20_memory.md R47): each read answers one more than the one before, and a write sets the
next answer. -/
def countingPort : Port Byte where
  read m _ := (m, m + 1)
  write _ _ v := v

/-- R7, R170: `PUSH BC` reports the cost of the table it is given. -/
theorem test_other_costs :
    (match stepWith { defaults with cyc := slowPush } { State.reset with mem := [(0, 0xC5)] } with
      | .next t => some t.report
      | .fault _ | .refused _ => none) = some (.done 20) := by decide

/-- R46, R47: `INC (HL)` behind the counting port reads its opcode, then 35, then writes 36 and leaves it there. -/
theorem test_other_port :
    (match stepWith ⟨.toggle, .keepHigh, cyc, countingPort⟩ (State.resetWith 0x34#8) with
      | .next t => some (t.mem, t.accesses)
      | .fault _ | .refused _ => none) =
      some (0x36#8, [.read 0 0x34, .read 0 0x35, .write 0 0x36]) := by decide

/-- The word placed for the host is the next one run, as the first after reset. -/
theorem test_withFetchWord_runs_next :
    (match step (State.reset.withFetchWord 8 0x3C) with
      | .next t => some (t.a, t.pc, t.report)
      | .fault _ | .refused _ => none) = some (0x01#8, 0x0001#16, .done 4) := by decide

/-- 40_nop_unassigned.md R82: the strict reading names the byte and its address. -/
theorem test_strictStep_names_the_byte :
    (match strictStep { State.reset with pc := 0x0200, mem := [(0x0200, 0x27)] } with
      | .fault x => some x
      | .next _ | .refused _ => none) = some (.unassigned 0x27#8 0x0200#16) := by decide

/-- A write of what an unlisted address reads as removes the cell; others stay in order. -/
theorem test_memory_stays_canonical :
    Memory.write [(1, 0x11), (5, 0x55)] 0x0003 0x33 = [(1, 0x11), (3, 0x33), (5, 0x55)] ∧
    Memory.write [(1, 0x11), (5, 0x55)] 0x0005 0x00 = [(1, 0x11)] := by decide

/-! ### Witnesses: the hypotheses of each statement, met together -/

/-- A state at an unassigned byte. -/
def atUnassigned : State := { State.reset with pc := 0xFFFF, mem := [(0xFFFF, 0x76)] }

/-- A state about to run `LD (HL),A` with HL at the next instruction. -/
def aboutToStore : State := { State.reset with a := 0x76, l := 0x01, mem := [(0, 0x77)] }

theorem witness_DecodeGivesBackWhatWasEncoded :
    (Instr.unassigned 0x76#8).wellFormed = true ∧ (Instr.ldSpNn 0xFFFF#16).wellFormed = true := by decide

theorem witness_EncodingIsTheBytesDecoded :
    decode [0x31#8, 0xFE#8, 0xFF#8, 0x76#8] = .ok (.ldSpNn 0xFFFE#16) [0x76#8] := by decide

theorem witness_SlotsNameRegistersAndTheCellAtHl :
    Instr.incA.form = .incR .a ∧ Instr.decB.form = .decR .b ∧ (Instr.ldAN 0xFF#8).form = .ldRN .a 0xFF#8 ∧
    Instr.ldAL.form = .ldRR .a .l ∧ Instr.ldHIndHl.form = .ldRHlInd .h ∧ Instr.incIndHl.form = .incHlInd ∧
    Instr.decIndHl.form = .decHlInd ∧ (Instr.ldIndHlN 0x00#8).form = .ldHlN 0x00#8 ∧
    Instr.ldIndHlA.form = .ldHlIndR .a ∧ Instr.addAB.form = .addAR .b ∧
    Instr.addAIndHl.form = .addAHlInd := by decide

theorem witness_TwoBitFieldsSelectPairsAndConditions :
    (Instr.ldSpNn 0xFFFF#16).form = .ldR16Nn .sp 0xFFFF#16 ∧ Instr.incBc.form = .incR16 .bc ∧
    Instr.decSp.form = .decR16 .sp ∧ Instr.addHlHl.form = .addHlR16 .hl ∧ Instr.pushAf.form = .push .af ∧
    Instr.popBc.form = .pop .bc ∧ (Instr.jrC 0x80#8).form = .jrCc .c 0x80#8 := by decide

theorem witness_PairsAreViewsOfTheirRegisters :
    Pair.bc ≠ .af := by decide

theorem witness_StepRunsTheDecodedInstruction :
    decode (bytesAtPc atUnassigned) = .ok (.unassigned 0x76#8) [0x00#8, 0x00#8] := by decide

theorem witness_EveryStepAndInstructionCompletes :
    assigned (atUnassigned.mem.read atUnassigned.pc) = false := by decide

theorem witness_CostIsZeroExactlyForUnassigned_table :
    CycOk slowPush ∧ ¬ CycOk (fun _ => 4) ∧
      ∃ t, stepWith { defaults with cyc := slowPush } atUnassigned = .next t :=
  ⟨⟨rfl, fun k assignedKey => by cases k <;> simp_all [slowPush, cyc], rfl, rfl, by decide⟩,
    fun ok => absurd ok.unassigned (by decide), _, rfl⟩

theorem witness_CostIsZeroExactlyForUnassigned :
    (∃ t, step State.reset = .next t) ∧ ∃ t, step atUnassigned = .next t := ⟨⟨_, rfl⟩, ⟨_, rfl⟩⟩

theorem witness_StrictStepFaultsExactlyAtUnassigned :
    assigned (atUnassigned.mem.read atUnassigned.pc) = false ∧
      assigned (State.reset.mem.read State.reset.pc) = true := by decide

theorem witness_UnassignedByteOnlyAdvancesPc :
    assigned (atUnassigned.mem.read atUnassigned.pc) = false ∧
      assigned (countingPort.read 0x76#8 0xFFFF#16).1 = false := by decide

theorem witness_EveryStepKeepsMemoryCanonical :
    aboutToStore.mem.wf ∧ ∃ t, step aboutToStore = .next t := ⟨by decide, _, rfl⟩

theorem witness_LowBitsOfFStayZero :
    aboutToStore.f &&& 0x0F#8 = 0 ∧ (∃ t, step aboutToStore = .next t) ∧
      defaults.popAfMask = .keepHigh ∧ ∃ t, stepWith defaults aboutToStore = .next t :=
  ⟨by decide, ⟨_, rfl⟩, rfl, _, rfl⟩

theorem witness_StepDependsOnRegistersAndMemoryOnly :
    SameCore aboutToStore { aboutToStore with report := .done 16, accesses := [.write 0 0] } := by
  refine ⟨fun r => ?_, rfl, rfl, rfl, rfl⟩
  cases r <;> rfl

theorem witness_OnlyRelativeJumpsMovePcElsewhere :
    ∃ t, decode (bytesAtPc { State.reset with mem := [(0, 0x38), (1, 0x80)] }) =
      .ok (.jrC 0x80#8) [0x00#8] ∧ step { State.reset with mem := [(0, 0x38), (1, 0x80)] } = .next t := ⟨_, by decide, rfl⟩

theorem witness_OnlyFiveInstructionsWriteSp :
    ∀ i ∈ [Instr.ldSpNn 0xFFFF#16, .incSp, .decSp, .pushAf, .popAf, .nop],
    ∃ t, exec i State.reset = .next t := by
  intro i listed
  simp only [List.mem_cons, List.not_mem_nil, or_false] at listed
  rcases listed with rfl | rfl | rfl | rfl | rfl | rfl <;> exact ⟨_, rfl⟩

theorem witness_FlagsOutsideTheTableKeepTheirValue :
    ∀ i ∈ [Instr.incA, .addHlSp, .addAA, .ldAH],
    i.form ≠ .pop .af ∧ ∃ t, exec i State.reset = .next t := by
  intro i listed
  simp only [List.mem_cons, List.not_mem_nil, or_false] at listed
  rcases listed with rfl | rfl | rfl | rfl <;> exact ⟨by decide, _, rfl⟩

theorem witness_SubtractAndHalfCarryReachPushAfOnly :
    let s : State := { State.reset with f := 0x00 }
    let s' : State := { State.reset with f := 0x6F }
    (∀ r, s.getReg r = s'.getReg r) ∧ s.pc = s'.pc ∧ s.sp = s'.sp ∧ s.mem = s'.mem ∧
      s.getFlag .z = s'.getFlag .z ∧ s.getFlag .c = s'.getFlag .c ∧ s.mem.read s.pc ≠ 0xF5#8 := by
  refine ⟨fun r => ?_, rfl, rfl, rfl, rfl, rfl, by decide⟩
  cases r <;> rfl

theorem witness_RecordedAccessesAccountForMemory :
    (∃ t, step aboutToStore = .next t) ∧
      ∃ t, stepWith ⟨.toggle, .keepHigh, cyc, countingPort⟩ (State.resetWith 0x34#8) = .next t :=
  ⟨⟨_, rfl⟩, _, rfl⟩

theorem witness_StepIsDeterminedByRegistersAndAnswers :
    ∃ t, stepWith ⟨.clear, .keepAll, slowPush, countingPort⟩ (State.resetWith 0x34#8) = .next t :=
  ⟨_, rfl⟩

/-- Both values of each two-valued parameter. -/
theorem witness_ParameterValues :
    defaults.ccfMode = .toggle ∧ { defaults with ccfMode := .clear }.ccfMode = .clear ∧
      defaults.popAfMask = .keepHigh ∧ { defaults with popAfMask := .keepAll }.popAfMask = .keepAll :=
  ⟨rfl, rfl, rfl, rfl⟩

theorem witness_StoreIsSeenByTheNextFetch :
    ∃ t u, step aboutToStore = .next t ∧ step t = .next u := ⟨_, _, rfl, rfl⟩

theorem witness_PushThenPopRestores :
    Instr.pushAf.form = .push .af ∧ Instr.popAf.form = .pop .af ∧
      (Pair.af = .af → State.reset.f &&& 0x0F#8 = 0) := by decide

theorem witness_LoadWordImmediateWritesThePair :
    (Instr.ldSpNn 0xFFFF#16).form = .ldR16Nn .sp 0xFFFF#16 ∧ R16.hl ≠ .sp := by decide

theorem witness_LoadByteImmediateWritesTheRegister :
    (Instr.ldAN 0x00#8).form = .ldRN .a 0x00#8 := by decide

theorem witness_StoreByteImmediateWritesTheCell :
    (Instr.ldIndHlN 0xAB#8).form = .ldHlN 0xAB#8 := by decide

theorem witness_IncrementRegister :
    Instr.incL.form = .incR .l := by decide

theorem witness_DecrementRegister :
    Instr.decA.form = .decR .a := by decide

theorem witness_IncrementWord :
    Instr.incSp.form = .incR16 .sp ∧ R16.bc ≠ .sp := by decide

theorem witness_DecrementWord :
    Instr.decDe.form = .decR16 .de ∧ R16.de ≠ .sp := by decide

theorem witness_AddWordToHl :
    Instr.addHlHl.form = .addHlR16 .hl := by decide

theorem witness_AddRegisterToA :
    Instr.addAA.form = .addAR .a := by decide

/-- Taken with Zero clear, not taken with Zero set. -/
theorem witness_JumpRelativeOnCondition :
    (Instr.jrNz 0xFE#8).form = .jrCc .nz 0xFE#8 ∧ State.reset.getFlag .z = false ∧
      ({ State.reset with f := 0x80 } : State).getFlag .z = true := by decide

/-- The bytes of `LD BC,0x1234` stand at PC across the top of the address space. -/
theorem witness_FetchedAs :
    (bytesAtPc { State.reset with pc := 0xFFFE, mem := [(0, 0x12), (0xFFFE, 0x01), (0xFFFF, 0x34)] }).take 3 =
      [0x01#8, 0x34#8, 0x12#8] := by decide

theorem witness_LoadRegisterFromRegister :
    Instr.ldHL.form = .ldRR .h .l := by decide

theorem witness_LoadRegisterFromCellAtHl :
    Instr.ldLIndHl.form = .ldRHlInd .l := by decide

theorem witness_StoreRegisterInCellAtHl :
    Instr.ldIndHlH.form = .ldHlIndR .h := by decide

theorem witness_PushStoresThePairBelowSp :
    Instr.pushAf.form = .push .af := by decide

theorem witness_PopLoadsThePairAtSp :
    Instr.popHl.form = .pop .hl ∧ Pair.hl ≠ .af := by decide

end Sys2Proof.Tests
end

/-! ### Lemmas for the family 10_state.md: completion, the record of a step, reset, pair writes -/
section

namespace Sys2Proof.Proofs

open Machine Laws

variable {σ : Type}

/-! #### Every meaning answers a next state (60_exceptions.md R140) -/

/-- No form stops the machine: the condition of `JR cc,e` and the pair of `POP` choose between two answers,
and each is a next state. -/
theorem meaningOfForm_completes (P : Params σ) (x : Form) (s : State σ) :
    ∃ t, meaningOfForm P x s = .next t := by
  cases x with
  | jrCc x e =>
    simp only [meaningOfForm, jumpIf]
    split
    · exact ⟨_, rfl⟩
    · exact ⟨_, rfl⟩
  | pop p => cases p <;> exact ⟨_, rfl⟩
  | _ => exact ⟨_, rfl⟩

theorem execWith_completes (P : Params σ) (i : Instr) (s : State σ) : ∃ t, execWith P i s = .next t :=
  meaningOfForm_completes P i.form s

theorem stepWith_completes (P : Params σ) (s : State σ) : ∃ t, stepWith P s = .next t :=
  execWith_completes P _ _

/-! #### Accesses are only ever added to the record (20_memory.md R46) -/

/-- The record of accesses begins with `xs`. -/
def RecordBeginsWith (xs : List Access) (s : State σ) : Prop := xs <+: s.accesses

/-- Port operations append to the record, so what it begins with stays. -/
theorem portStable_recordBeginsWith (port : Port σ) (xs : List Access) :
    PortStable port (RecordBeginsWith xs) where
  congr s t _ accesses begins := by rwa [RecordBeginsWith, accesses]
  read s a begins := List.IsPrefix.trans begins ⟨_, rfl⟩
  write s a v begins := List.IsPrefix.trans begins ⟨_, rfl⟩

/-- Whatever the format, the fetch first reads the opcode byte at PC (30_encoding.md R60). -/
theorem fetchInstr_recordBeginsWith (s : State σ) (port : Port σ) :
    RecordBeginsWith (s.accesses ++ [.read s.pc (port.read s.mem s.pc).1]) (s.fetchInstr port).2 := by
  rw [State.fetchInstr_eq, RecordBeginsWith]
  dsimp only
  split <;> simp

/-- Every step completes, and its first access is the opcode fetch at the PC it began with. -/
theorem stepWith_first_access (P : Params σ) (s : State σ) :
    ∃ u, stepWith P s = .next u ∧
      u.accesses.head? = some (.read s.pc (P.port.read s.mem s.pc).1) := by
  obtain ⟨u, next⟩ := stepWith_completes P s
  have fetched := fetchInstr_recordBeginsWith (s.withRecord []) P.port
  obtain ⟨rest, record⟩ := execWith_keeps (portStable_recordBeginsWith P.port _) _ _ u fetched next
  exact ⟨u, next, by rw [← record]; rfl⟩

/-! #### The state after reset (R37, 70_reset_and_hazards.md R160) -/

@[simp] theorem getReg_applyReset (s : State σ) (r : R8) : s.applyReset.getReg r = 0 := by
  cases r <;> rfl

@[simp] theorem applyReset_f (s : State σ) : s.applyReset.f = 0 := rfl

@[simp] theorem applyReset_pc (s : State σ) : s.applyReset.pc = 0 := rfl

@[simp] theorem applyReset_sp (s : State σ) : s.applyReset.sp = 0 := rfl

@[simp] theorem applyReset_mem (s : State σ) : s.applyReset.mem = s.mem := rfl

@[simp] theorem applyReset_accesses (s : State σ) : s.applyReset.accesses = [] := rfl

@[simp] theorem getFlag_applyReset (s : State σ) (x : Flag) : s.applyReset.getFlag x = false := by
  simp [State.getFlag]

@[simp] theorem getPair_applyReset (s : State σ) (p : Pair) : s.applyReset.getPair p = 0 := by
  cases p <;> simp [State.getPair, joinBytes]

/-- The first step after a reset fetches from 0x0000 (R37). -/
theorem stepWith_applyReset (P : Params σ) (s : State σ) :
    ∃ u, stepWith P s.applyReset = .next u ∧
      u.accesses.head? = some (.read 0 (P.port.read s.mem 0).1) :=
  stepWith_first_access P s.applyReset

/-! #### What a pair write keeps (R23) -/

theorem regsKeptBut_setPair (s : State σ) (p : Pair) (v : Word) :
    RegsKeptBut (Pair.regs p) s (s.setPair p v) :=
  fun q outside => State.getReg_setPair s p v q outside

theorem setPair_f_of_ne_af (s : State σ) {p : Pair} (v : Word) (other : p ≠ .af) :
    (s.setPair p v).f = s.f := by
  rw [State.setPair_f, if_neg other]

end Sys2Proof.Proofs
end

/-! ### The obligations of the family 10_state.md -/
section

namespace Sys2Proof.Proofs

open Machine Laws

/-- Settles O10. Reading a pair and the two bytes a pair write stores are the definitions of the views; the
round trip and the frame are the laws of `setPair`. -/
theorem pairsAreViewsOfTheirRegisters : Obligations.PairsAreViewsOfTheirRegisters := by
  intro s v
  refine ⟨⟨rfl, rfl, rfl, rfl⟩, fun p => ?_, ⟨rfl, rfl⟩, ⟨rfl, rfl⟩, ⟨rfl, rfl⟩, ⟨rfl, rfl⟩⟩
  exact ⟨s.getPair_setPair_same p v, setPair_f_of_ne_af s v, regsKeptBut_setPair s p v,
    s.setPair_pc p v, s.setPair_sp p v, s.setPair_mem p v⟩

/-- Settles O1: the fields by the laws of `applyReset`, the first fetch because every step completes and
its record begins with the opcode read at PC. -/
theorem resetZeroesEveryRegister : Obligations.ResetZeroesEveryRegister := by
  refine ⟨fun σ P s => ?_, fun s => ?_, rfl⟩
  · exact ⟨getReg_applyReset s, applyReset_f s, applyReset_pc s, applyReset_sp s, getFlag_applyReset s,
      getPair_applyReset s, applyReset_mem s, applyReset_accesses s, stepWith_applyReset P s⟩
  · rw [step_eq_stepWith]
    exact stepWith_applyReset defaults s

end Sys2Proof.Proofs
end

/-! ### Lemmas for the family 20_memory.md: word accesses -/
section

namespace Sys2Proof.Proofs

open Machine Laws

variable {σ : Type}

/-! #### A word read on any port (R42) -/

/-- The second read asks the port as the first left it, and the port ends as the second leaves it. -/
theorem readWord_mem (s : State σ) (port : Port σ) (a : Word) :
    (s.readWord port a).2.mem = (port.read (port.read s.mem a).2 (a + 1)).2 := by
  simp [State.readWord_eq, State.readByte_eq]

theorem readWord_value (s : State σ) (port : Port σ) (a : Word) :
    (s.readWord port a).1 =
      joinBytes (port.read (port.read s.mem a).2 (a + 1)).1 (port.read s.mem a).1 := by
  simp [State.readWord_eq, State.readByte_eq]

/-- A word read is recorded low byte first, on every port. -/
theorem readWord_accesses (s : State σ) (port : Port σ) (a : Word) :
    (s.readWord port a).2.accesses = s.accesses ++
      [.read a (port.read s.mem a).1, .read (a + 1) (port.read (port.read s.mem a).2 (a + 1)).1] := by
  simp [State.readWord_eq, State.readByte_eq]

/-! #### A word write on any port (R43), and reading it back from the reference port (R44, R47) -/

theorem writeWord_mem (s : State σ) (port : Port σ) (a v : Word) :
    (s.writeWord port a v).mem = port.write (port.write s.mem a (loByte v)) (a + 1) (hiByte v) := by
  simp [State.writeWord, State.writeByte_eq]

/-- A word read of the reference port leaves memory as it was. -/
theorem readWord_reference_mem (s : State) (a : Word) : (s.readWord referencePort a).2.mem = s.mem := by
  rw [readWord_mem, referencePort_read, referencePort_read]

/-- Where a word has been stored, a word read gives it back: its two bytes joined are the word. -/
theorem readWord_of_memStoredWord {a v : Word} {s t : State} (stored : MemStoredWord a v s t) :
    (t.readWord referencePort a).1 = v := by
  obtain ⟨low, high, -⟩ := stored
  rw [State.readWord_reference, low, high, joinBytes_halves]

end Sys2Proof.Proofs
end

/-! ### The obligation of the family 20_memory.md -/
section

namespace Sys2Proof.Proofs

open Machine Laws

/-- Settles O13. On any port, the value, port state and record of the two byte accesses; on the reference
port, both halves are stored because `a + 1` is never `a`, and joining them gives the word back. -/
theorem wordAccessesAreTwoByteAccessesLowFirst :
    Obligations.WordAccessesAreTwoByteAccessesLowFirst := by
  refine ⟨fun σ port s a v => ?_, fun s a v => ?_, by decide⟩
  · exact ⟨readWord_value s port a, readWord_mem s port a, readWord_accesses s port a,
      writeWord_mem s port a v, State.writeWord_accesses s port a v⟩
  · have stored := State.memStoredWord_writeWord s a v
    have ⟨low, high, _⟩ := stored
    exact ⟨low, high, readWord_of_memStoredWord stored, readWord_reference_mem _ a⟩

end Sys2Proof.Proofs
end

/-! ### Lemmas for the family 30_encoding.md: what decoding consumes, and the slots of the opcode byte -/
section

namespace Sys2Proof.Proofs

/-! #### The decoder, format by format (R62, R77) -/

theorem decode_of_op {op : Byte} (format : formatOf op = .op) (rest : List Byte) :
    decode (op :: rest) = .ok (instrOf op 0 0) rest := by
  simp [decode, format]

theorem decode_of_opN {op : Byte} (format : formatOf op = .opN) (n : Byte) (rest : List Byte) :
    decode (op :: n :: rest) = .ok (instrOf op n 0) rest := by
  simp [decode, format]

theorem decode_of_opE {op : Byte} (format : formatOf op = .opE) (e : Byte) (rest : List Byte) :
    decode (op :: e :: rest) = .ok (instrOf op e 0) rest := by
  simp [decode, format]

theorem decode_of_opNn {op : Byte} (format : formatOf op = .opNn) (lo hi : Byte) (rest : List Byte) :
    decode (op :: lo :: hi :: rest) = .ok (instrOf op lo hi) rest := by
  simp [decode, format]

/-- Where enough bytes follow, decoding succeeds and consumes as many bytes as the format is long. -/
theorem decode_consumes_format_length (op n1 n2 : Byte) (rest : List Byte) :
    ∃ i, decode (op :: n1 :: n2 :: rest) =
      .ok i ((op :: n1 :: n2 :: rest).drop (formatOf op).length) := by
  cases format : formatOf op with
  | op => exact ⟨_, decode_of_op format _⟩
  | opN => exact ⟨_, decode_of_opN format n1 _⟩
  | opE => exact ⟨_, decode_of_opE format n1 _⟩
  | opNn => exact ⟨_, decode_of_opNn format n1 n2 _⟩

/-- The lengths as R77 lists them; its two-byte opcodes are those with an `n` and those with an `e`. -/
theorem length_formatOf (op : Byte) : (formatOf op).length =
    if op ∈ [0x01#8, 0x11#8, 0x21#8, 0x31#8] then 3
    else if op ∈ [0x06#8, 0x0E#8, 0x16#8, 0x1E#8, 0x26#8, 0x2E#8, 0x36#8, 0x3E#8] ++
      [0x18#8, 0x20#8, 0x28#8, 0x30#8, 0x38#8] then 2
    else 1 := by
  simp only [formatOf, List.contains_iff_mem, List.mem_append, ite_or, apply_ite Format.length]
  rfl

/-- The decoder has no row for the bytes outside the assigned set (R75, R81). -/
theorem instrOf_unassigned : ∀ op : Byte, assigned op = false → instrOf op 0 0 = .unassigned op := by
  decide

/-- An unassigned byte takes itself alone, whatever follows it. -/
theorem decode_unassigned {op : Byte} (free : assigned op = false) (rest : List Byte) :
    decode (op :: rest) = .ok (.unassigned op) rest := by
  rw [decode_of_op (Laws.OpcodeFixesLength.unassigned_format op free), instrOf_unassigned op free]

/-! #### The destination and source slots (R64) -/

/-- The destination that a form names in a 3-bit slot of its own. -/
def destOf : Form → Option Loc
  | .incR r | .decR r | .ldRN r _ | .ldRR r _ | .ldRHlInd r => some (.reg r)
  | .incHlInd | .decHlInd | .ldHlN _ | .ldHlIndR _ => some .hlInd
  | _ => none

/-- The source that a form names in a 3-bit slot of its own. -/
def sourceOf : Form → Option Loc
  | .ldRR _ r | .ldHlIndR r | .addAR r => some (.reg r)
  | .ldRHlInd _ | .addAHlInd => some .hlInd
  | _ => none

/-- The immediate byte has no part in the opcode byte. -/
theorem opcode_ldRN (r : R8) (n : Byte) :
    (Form.ldRN r n).toInstr.opcode = (Form.ldRN r 0).toInstr.opcode := by
  cases r <;> rfl

theorem opcode_ldHlN (n : Byte) : (Form.ldHlN n).toInstr.opcode = 0x36 := rfl

/-- op[5:3] of a form with a destination slot selects that destination: a register by its slot, the cell at
HL by slot 6. -/
theorem decodeR8_fieldD_toInstr {x : Form} {loc : Loc} (dest : destOf x = some loc) :
    decodeR8 (fieldD x.toInstr.opcode) = loc := by
  cases x with
  | incR r | decR r | ldRHlInd r | ldHlIndR r => cases dest; cases r <;> rfl
  | ldRR r q => cases dest; cases r <;> cases q <;> rfl
  | ldRN r n => cases dest; rw [opcode_ldRN]; cases r <;> rfl
  | incHlInd | decHlInd => cases dest; rfl
  | ldHlN n => cases dest; rw [opcode_ldHlN]; rfl
  | _ => cases dest

/-- op[2:0] of a form with a source slot selects that source. -/
theorem decodeR8_fieldS_toInstr {x : Form} {loc : Loc} (source : sourceOf x = some loc) :
    decodeR8 (fieldS x.toInstr.opcode) = loc := by
  cases x with
  | ldRR q r => cases source; cases q <;> cases r <;> rfl
  | ldHlIndR r | addAR r | ldRHlInd r => cases source; cases r <;> rfl
  | addAHlInd => cases source; rfl
  | _ => cases source

theorem decodeR8_fieldD_of_form {i : Instr} {x : Form} {loc : Loc} (form : i.form = x)
    (dest : destOf x = some loc) : decodeR8 (fieldD i.opcode) = loc := by
  rw [Instr.eq_of_form form, decodeR8_fieldD_toInstr dest]

theorem decodeR8_fieldS_of_form {i : Instr} {x : Form} {loc : Loc} (form : i.form = x)
    (source : sourceOf x = some loc) : decodeR8 (fieldS i.opcode) = loc := by
  rw [Instr.eq_of_form form, decodeR8_fieldS_toInstr source]

end Sys2Proof.Proofs
end

/-! ### The obligations of the family 30_encoding.md -/
section

namespace Sys2Proof.Proofs

/-- Settles O7: decoding consumes the length of the format, which the first byte fixes by R77's lists; 0xCB
is an unassigned byte, and such a byte takes itself alone. -/
theorem firstByteAloneFixesTheLength : Obligations.FirstByteAloneFixesTheLength := by
  refine ⟨fun op n1 n2 rest => ?_, decode_unassigned (by decide)⟩
  obtain ⟨i, decoded⟩ := decode_consumes_format_length op n1 n2 rest
  refine ⟨i, decoded.trans (congrArg (Decoded.ok i) ?_)⟩
  simp only [length_formatOf, apply_ite (List.drop · (op :: n1 :: n2 :: rest))]
  rfl

/-- Settles O8: the slot order is the decoder's table; a form with a destination or source slot has it in
op[5:3] or op[2:0]; reading and writing a location are what R64 says by the definition of each. -/
theorem slotsNameRegistersAndTheCellAtHl : Obligations.SlotsNameRegistersAndTheCellAtHl := by
  refine ⟨⟨rfl, rfl, rfl, rfl, rfl, rfl, rfl, rfl⟩, fun i r q n => ⟨?_, ?_, ?_, ?_⟩,
    fun σ port s r v => ⟨s.getLoc_eq port (.reg r), s.setLoc_eq port (.reg r) v,
      s.getLoc_eq port .hlInd, s.setLoc_eq port .hlInd v⟩⟩
  · rintro (form | form | form | form | form) <;> exact decodeR8_fieldD_of_form form rfl
  · rintro (form | form | form | form) <;> exact decodeR8_fieldD_of_form form rfl
  · rintro (form | form | form) <;> exact decodeR8_fieldS_of_form form rfl
  · rintro (form | form) <;> exact decodeR8_fieldS_of_form form rfl

end Sys2Proof.Proofs
end

/-! ### Lemmas for the family 40_nop_unassigned.md: what decodes to `unassigned`, and how the two kinds of step end -/
section

namespace Sys2Proof.Proofs

open Machine Laws

variable {σ : Type}

/-! #### Which bytes decode to `unassigned` (30_encoding.md R75) -/

/-- The rows that look at their operand bytes are assigned ones, so the opcode byte alone decides. -/
theorem decodeForm_zero_operands {op n1 n2 x : Byte} (row : decodeForm op n1 n2 = .unassigned x) :
    decodeForm op 0 0 = .unassigned op := by
  unfold decodeForm decodeBlk0 decodeBlk1 decodeBlk2 decodeBlk3 at row ⊢
  repeat' split at row
  all_goals simp_all

/-- The decoder has a row for every assigned byte, whatever the bytes that follow it. -/
theorem decodeForm_assigned {op : Byte} (taken : assigned op = true) (n1 n2 x : Byte) :
    decodeForm op n1 n2 ≠ .unassigned x := by
  have rows : ∀ b : Byte, assigned b = true → decodeForm b 0 0 ≠ .unassigned b := by decide
  exact fun row => rows op taken (decodeForm_zero_operands row)

/-! #### The fetch (30_encoding.md R60, R77) -/

/-- The fetch at a byte that is an instruction by itself: that one byte. -/
theorem fetchInstr_of_op {s : State σ} {port : Port σ}
    (format : formatOf (port.read s.mem s.pc).1 = .op) :
    s.fetchInstr port = (instrOf (port.read s.mem s.pc).1 0 0,
      ((s.setPc (s.pc + 1)).setMem (port.read s.mem s.pc).2).withRecord
        (s.accesses ++ [.read s.pc (port.read s.mem s.pc).1])) := by
  simp [State.fetchInstr_eq, format]

/-- What is fetched is what the decoder makes of the opcode byte and two bytes more. -/
theorem fetchInstr_eq_instrOf (s : State σ) (port : Port σ) :
    ∃ n1 n2, (s.fetchInstr port).1 = instrOf (port.read s.mem s.pc).1 n1 n2 := by
  rw [State.fetchInstr_eq]
  dsimp only
  split <;> exact ⟨_, _, rfl⟩

/-- An instruction that is its opcode byte alone is fetched as that byte. -/
theorem fetchedAs_of_op {op : Byte} {i : Instr} (format : formatOf op = .op) (encoded : encode i = [op])
    (row : instrOf op 0 0 = i) : FetchedAs i [op] := by
  refine ⟨encoded, fun s here => ?_⟩
  obtain rfl : s.mem.read s.pc = op := by simpa [bytesAtPc] using here
  subst row
  rw [step_eq, fetchInstr_of_op (s := s.withRecord []) format]
  rfl

/-! #### How a step ends: `raise Unassigned` at an unassigned byte, `done` at any other (R13, R81) -/

/-- Every row but the unassigned one ends with `done`, at the cost of an assigned instruction. -/
theorem meaningOfForm_finish (P : Params σ) {x : Form} (s : State σ) (row : ∀ op, x ≠ .unassigned op) :
    ∃ k u, k ≠ .unassigned ∧ meaningOfForm P x s = finish P k u := by
  cases x with
  | unassigned op => exact absurd rfl (row op)
  | jrCc x e =>
    simp only [meaningOfForm, jumpIf]
    split
    · exact ⟨.jrCcTaken, _, by decide, rfl⟩
    · exact ⟨.jrCcNotTaken, _, by decide, rfl⟩
  | pop p => cases p <;> exact ⟨.pop, _, by decide, rfl⟩
  | _ => exact ⟨_, _, CycKey.noConfusion, rfl⟩

/-- At an assigned byte the step ends with `done`. -/
theorem stepWith_of_assigned {P : Params σ} {s : State σ}
    (taken : assigned (P.port.read s.mem s.pc).1 = true) :
    ∃ k u, k ≠ .unassigned ∧ stepWith P s = finish P k u := by
  obtain ⟨n1, n2, fetched⟩ := fetchInstr_eq_instrOf (s.withRecord []) P.port
  rw [stepWith_eq, fetched, instrOf, execWith, Form.form_toInstr]
  exact meaningOfForm_finish P _ (decodeForm_assigned taken n1 n2)

/-- At an unassigned byte the step raises `Unassigned` in the state that fetching that byte leaves. -/
theorem stepWith_of_unassigned {P : Params σ} {s : State σ}
    (free : assigned (P.port.read s.mem s.pc).1 = false) :
    stepWith P s = raiseUnassigned (P.port.read s.mem s.pc).1
      (((s.setPc (s.pc + 1)).setMem (P.port.read s.mem s.pc).2).withRecord
        [.read s.pc (P.port.read s.mem s.pc).1]) := by
  have format := OpcodeFixesLength.unassigned_format _ free
  rw [stepWith_eq, fetchInstr_of_op (s := s.withRecord []) format]
  simp only [State.withRecord_mem, State.withRecord_pc, instrOf_unassigned _ free]
  rfl

/-- What that leaves: PC past the byte, the port as the fetch leaves it, all else as it was (R81). -/
theorem stepWith_unassigned_frame {P : Params σ} {s : State σ}
    (free : assigned (P.port.read s.mem s.pc).1 = false) :
    ∃ t, stepWith P s = .next t ∧ t.pc = s.pc + 1 ∧ RegsKeptBut [] s t ∧ t.f = s.f ∧ t.sp = s.sp ∧
      t.mem = (P.port.read s.mem s.pc).2 ∧ t.accesses = [.read s.pc (P.port.read s.mem s.pc).1] ∧
      t.report = .unassigned (P.port.read s.mem s.pc).1 s.pc ∧ t.report.cost = some 0 :=
  ⟨_, stepWith_of_unassigned free, rfl, fun r _ => by simp, rfl, rfl, rfl, rfl, by simp, rfl⟩

/-! #### The fault reading (R82) -/

@[simp] theorem strict_finish (P : Params σ) (k : CycKey) (s : State σ) :
    strict (finish P k s) = finish P k s := rfl

@[simp] theorem strict_raiseUnassigned (op : Byte) (s : State σ) :
    strict (raiseUnassigned op s) = .fault (.unassigned op (s.pc - 1)) := rfl

end Sys2Proof.Proofs
end

/-! ### The obligations of the family 40_nop_unassigned.md -/
section

namespace Sys2Proof.Proofs

open Machine Laws

/-- Settles O17: at an unassigned byte the step raises `Unassigned`, which `strict` turns into the fault; at
any other it ends with `done`, which `strict` keeps. -/
theorem strictStepFaultsExactlyAtUnassigned : Obligations.StrictStepFaultsExactlyAtUnassigned := by
  intro s
  rw [strictStep, step_eq_stepWith]
  constructor
  · intro free
    rw [stepWith_of_unassigned (P := defaults) free, strict_raiseUnassigned]
    simp
  · intro taken
    obtain ⟨k, u, -, done⟩ := stepWith_of_assigned (P := defaults) taken
    rw [done, strict_finish]
    exact ⟨rfl, _, rfl⟩

/-- Settles O18: the step at the defaults is the parametric one behind the reference port, which a read leaves
as it was; `exec` of the instruction changes the report alone. -/
theorem unassignedByteOnlyAdvancesPc : Obligations.UnassignedByteOnlyAdvancesPc := by
  refine ⟨fun s free => ?_, fun σ P s => stepWith_unassigned_frame, fun op s => ?_⟩
  · rw [step_eq_stepWith]
    exact stepWith_unassigned_frame (P := defaults) free
  · exact ⟨_, exec_of_form rfl s, fun r _ => by simp, rfl, ⟨rfl, rfl⟩, fun _ => rfl, rfl, rfl⟩

/-- Settles O31: NOP is its opcode byte alone, and its meaning is `done` at cost 4 in the state it began in. -/
theorem nopChangesNothing : Obligations.NopChangesNothing := by
  refine ⟨fetchedAs_of_op rfl rfl rfl, fun s => ⟨_, exec_of_form rfl s, ?_⟩⟩
  exact ⟨fun r _ => by simp, rfl, ⟨rfl, rfl⟩, fun _ => rfl, rfl, by simp⟩

end Sys2Proof.Proofs
end

/-! ### Lemmas for the family 41_immediate_loads.md: fetching an instruction with operand bytes -/
section

namespace Sys2Proof.Proofs

open Machine Laws

variable {σ : Type}

/-! #### The fetch of an opcode byte and its operand bytes (30_encoding.md R60, R62, R77) -/

/-- The fetch where the opcode byte has one operand byte, an `n` or an `e`. -/
theorem fetchInstr_of_length_two {s : State} (length : (formatOf (s.mem.read s.pc)).length = 2) :
    s.fetchInstr referencePort = (instrOf (s.mem.read s.pc) (s.mem.read (s.pc + 1)) 0,
      (s.setPc (s.pc + 2)).withRecord (s.accesses ++ fetchAccesses s 2)) := by
  rw [State.fetchInstr_reference]
  cases format : formatOf (s.mem.read s.pc) with
  | opN | opE => rfl
  | op | opNn => simp [format, Format.length] at length

/-- The fetch where the opcode byte has two operand bytes. -/
theorem fetchInstr_of_length_three {s : State} (length : (formatOf (s.mem.read s.pc)).length = 3) :
    s.fetchInstr referencePort =
      (instrOf (s.mem.read s.pc) (s.mem.read (s.pc + 1)) (s.mem.read (s.pc + 2)),
        (s.setPc (s.pc + 3)).withRecord (s.accesses ++ fetchAccesses s 3)) := by
  rw [State.fetchInstr_reference]
  cases format : formatOf (s.mem.read s.pc) with
  | opNn => rfl
  | op | opN | opE => simp [format, Format.length] at length

/-- An instruction of two bytes is fetched as those two. -/
theorem fetchedAs_of_length_two {op n : Byte} {i : Instr} (length : (formatOf op).length = 2)
    (encoded : encode i = [op, n]) (row : instrOf op n 0 = i) : FetchedAs i [op, n] := by
  refine ⟨encoded, fun s here => ?_⟩
  obtain ⟨rfl, rfl⟩ : s.mem.read s.pc = op ∧ s.mem.read (s.pc + 1) = n := by
    simpa [bytesAtPc] using here
  subst row
  rw [step_eq, fetchInstr_of_length_two (s := s.withRecord []) length]
  rfl

/-- An instruction of three bytes is fetched as those three. -/
theorem fetchedAs_of_length_three {op lo hi : Byte} {i : Instr} (length : (formatOf op).length = 3)
    (encoded : encode i = [op, lo, hi]) (row : instrOf op lo hi = i) : FetchedAs i [op, lo, hi] := by
  refine ⟨encoded, fun s here => ?_⟩
  obtain ⟨rfl, rfl, rfl⟩ :
      s.mem.read s.pc = op ∧ s.mem.read (s.pc + 1) = lo ∧ s.mem.read (s.pc + 2) = hi := by
    simpa [bytesAtPc] using here
  subst row
  rw [step_eq, fetchInstr_of_length_three (s := s.withRecord []) length]
  rfl

/-! #### The encodings of the immediate loads (R70: 00pp0001, 00ddd110, 36) -/

/-- The operand bytes of `LD r16,nn`, joined again, are the immediate. -/
theorem instrOf_ldR16Nn (p : R16) (nn : Word) :
    instrOf (0b00#2 ++ p.code ++ 0b0001#4) (loByte nn) (hiByte nn) = (Form.ldR16Nn p nn).toInstr := by
  have row : decodeForm (0b00#2 ++ p.code ++ 0b0001#4) (loByte nn) (hiByte nn) =
      .ldR16Nn p (joinBytes (hiByte nn) (loByte nn)) := by
    cases p <;> rfl
  rw [instrOf, row, joinBytes_halves]

theorem fetchedAs_ldR16Nn (p : R16) (nn : Word) :
    FetchedAs (Form.ldR16Nn p nn).toInstr [0b00#2 ++ p.code ++ 0b0001#4, loByte nn, hiByte nn] := by
  cases p <;> exact fetchedAs_of_length_three rfl rfl (instrOf_ldR16Nn _ nn)

theorem fetchedAs_ldRN (r : R8) (n : Byte) :
    FetchedAs (Form.ldRN r n).toInstr [0b00#2 ++ r.slot ++ 0b110#3, n] := by
  cases r <;> exact fetchedAs_of_length_two rfl rfl rfl

theorem fetchedAs_ldHlN (n : Byte) : FetchedAs (Form.ldHlN n).toInstr [0b00110110#8, n] :=
  fetchedAs_of_length_two rfl rfl rfl

/-! #### What a write of a 16-bit operand, a register or a byte keeps, and what the report does not touch -/

/-- The report is no part of a 16-bit operand. -/
@[simp] theorem getR16_setReport (s : State σ) (x : Report) (p : R16) :
    (s.setReport x).getR16 p = s.getR16 p :=
  State.getR16_congr p (fun r => s.getReg_setReport x r) (s.setReport_sp x)

theorem regsKeptBut_setReport {s t : State σ} {rs : List R8} (kept : RegsKeptBut rs s t) (x : Report) :
    RegsKeptBut rs s (t.setReport x) :=
  fun r outside => (t.getReg_setReport x r).trans (kept r outside)

theorem regsKeptBut_setR16 (s : State σ) (p : R16) (v : Word) :
    RegsKeptBut (R16.regs p) s (s.setR16 p v) :=
  s.getReg_setR16 p v

theorem regsKeptBut_setReg (s : State σ) (r : R8) (v : Byte) : RegsKeptBut [r] s (s.setReg r v) :=
  fun q outside => by rw [State.getReg_setReg, if_neg (List.ne_of_not_mem_cons outside)]

/-- A byte write changes no register, on any port. -/
theorem regsKeptBut_writeByte (s : State σ) (port : Port σ) (a : Word) (v : Byte) :
    RegsKeptBut [] s (s.writeByte port a v) :=
  fun r _ => by simp [State.writeByte_eq]

end Sys2Proof.Proofs
end

/-! ### The obligations of the family 41_immediate_loads.md -/
section

namespace Sys2Proof.Proofs

open Machine Laws

/-- Settles O32: the three bytes decode to the form with its immediate, whose meaning is one write of the
operand; the value read back and the frame are the laws of `setR16`. -/
theorem loadWordImmediateWritesThePair : Obligations.LoadWordImmediateWritesThePair := by
  intro i p nn s form
  refine ⟨Instr.eq_of_form form ▸ fetchedAs_ldR16Nn p nn, _, exec_of_form form s, ?_⟩
  exact ⟨by simp, regsKeptBut_setReport (regsKeptBut_setR16 s p nn) _, fun other => by simp [other],
    by simp, by simp, fun x => by simp, rfl, by simp⟩

/-- Settles O33: the two bytes decode to the form with its immediate, whose meaning is one register write; the
value read back and the frame are the laws of `setReg`. -/
theorem loadByteImmediateWritesTheRegister : Obligations.LoadByteImmediateWritesTheRegister := by
  intro i r n s form
  refine ⟨Instr.eq_of_form form ▸ fetchedAs_ldRN r n, _, exec_of_form form s, ?_⟩
  simp only [State.setLoc_eq]
  exact ⟨by simp, regsKeptBut_setReport (regsKeptBut_setReg s r n) _, by simp, ⟨by simp, by simp⟩,
    fun x => by simp, rfl, by simp⟩

/-- Settles O34: the meaning of the form is one byte write at HL, after the fetch of the immediate; it is seen
at that address only, and touches no register. -/
theorem storeByteImmediateWritesTheCell : Obligations.StoreByteImmediateWritesTheCell := by
  intro i n s form
  refine ⟨Instr.eq_of_form form ▸ fetchedAs_ldHlN n, _, exec_of_form form s, ?_⟩
  exact ⟨s.memStored_writeByte (s.getPair .hl) n,
    regsKeptBut_setReport (regsKeptBut_writeByte s referencePort (s.getPair .hl) n) _, rfl, ⟨rfl, rfl⟩,
    rfl, rfl⟩

end Sys2Proof.Proofs
end

/-! ### Lemmas for the family 42_inc_dec.md: half-carry at 1, encodings, and a byte or a word written by a meaning -/
section

namespace Sys2Proof.Proofs

open Machine Laws

variable {σ : Type}

/-! #### Half-carry of adding and subtracting 1 (10_state.md R39) -/

/-- Adding 1 carries out of bit 3 exactly from a low nibble of 0xF (R90). -/
theorem halfAdd8_one (v : Byte) : halfAdd8 v 1 = decide (v &&& 0x0F#8 = 0x0F#8) := by
  have nibble : (v &&& 0x0F#8).toNat < 16 :=
    (BitVec.toNat_and v 0x0F#8).trans_lt (Nat.and_lt_two_pow v.toNat (by decide : 15 < 2 ^ 4))
  have one : (1 &&& 0x0F#8).toNat = 1 := rfl
  have full : (0x0F#8).toNat = 15 := rfl
  rw [halfAdd8, decide_eq_decide, ← BitVec.toNat_inj, one, full]
  omega

/-- Subtracting 1 borrows into bit 3 exactly from a low nibble of 0 (R92). -/
theorem halfSub8_one (v : Byte) : halfSub8 v 1 = decide (v &&& 0x0F#8 = 0) := by
  have one : (1 &&& 0x0F#8).toNat = 1 := rfl
  have empty : (0 : Byte).toNat = 0 := rfl
  rw [halfSub8, decide_eq_decide, ← BitVec.toNat_inj, one, empty]
  exact Nat.lt_one_iff

/-! #### The encodings (R70: 00ddd100, 34, 00ddd101, 35, 00pp0011, 00pp1011) -/

theorem fetchedAs_incR (r : R8) : FetchedAs (Form.incR r).toInstr [0b00#2 ++ r.slot ++ 0b100#3] := by
  cases r <;> exact fetchedAs_of_op rfl rfl rfl

theorem fetchedAs_decR (r : R8) : FetchedAs (Form.decR r).toInstr [0b00#2 ++ r.slot ++ 0b101#3] := by
  cases r <;> exact fetchedAs_of_op rfl rfl rfl

theorem fetchedAs_incR16 (p : R16) : FetchedAs (Form.incR16 p).toInstr [0b00#2 ++ p.code ++ 0b0011#4] := by
  cases p <;> exact fetchedAs_of_op rfl rfl rfl

theorem fetchedAs_decR16 (p : R16) : FetchedAs (Form.decR16 p).toInstr [0b00#2 ++ p.code ++ 0b1011#4] := by
  cases p <;> exact fetchedAs_of_op rfl rfl rfl

/-! #### The meanings, by the location they change (R90 to R93) -/

/-- `INC r`: the register plus 1, and the flags of that. -/
theorem incLoc_reg (P : Params σ) (r : R8) (k : CycKey) (s : State σ) :
    incLoc P (.reg r) k s = finish P k ((s.setReg r (s.getReg r + 1)).setZNH (s.getReg r + 1) false
      (decide (s.getReg r &&& 0x0F#8 = 0x0F#8))) := by
  rw [← halfAdd8_one]
  rfl

/-- `DEC r`: the register minus 1, and the flags of that. -/
theorem decLoc_reg (P : Params σ) (r : R8) (k : CycKey) (s : State σ) :
    decLoc P (.reg r) k s = finish P k ((s.setReg r (s.getReg r - 1)).setZNH (s.getReg r - 1) true
      (decide (s.getReg r &&& 0x0F#8 = 0))) := by
  rw [← halfSub8_one]
  rfl

/-- The state after a read of the byte at an address of the reference port and a write of `w` there: the two
accesses of `INC (HL)` and `DEC (HL)`. -/
def rewriteByte (s : State) (a : Word) (w : Byte) : State :=
  (s.readByte referencePort a).2.writeByte referencePort a w

/-- `INC (HL)`: the byte at HL plus 1, and the flags of that. The read moves no register, so that the write is
at the address read. -/
theorem incLoc_hlInd (k : CycKey) (s : State) :
    incLoc defaults .hlInd k s = finish defaults k
      ((rewriteByte s (s.getPair .hl) (s.mem.read (s.getPair .hl) + 1)).setZNH
        (s.mem.read (s.getPair .hl) + 1) false
        (decide (s.mem.read (s.getPair .hl) &&& 0x0F#8 = 0x0F#8))) := by
  rw [← halfAdd8_one]
  rfl

/-- `DEC (HL)`: the byte at HL minus 1, and the flags of that. -/
theorem decLoc_hlInd (k : CycKey) (s : State) :
    decLoc defaults .hlInd k s = finish defaults k
      ((rewriteByte s (s.getPair .hl) (s.mem.read (s.getPair .hl) - 1)).setZNH
        (s.mem.read (s.getPair .hl) - 1) true
        (decide (s.mem.read (s.getPair .hl) &&& 0x0F#8 = 0))) := by
  rw [← halfSub8_one]
  rfl

/-! #### What the flag write and the read before a write keep -/

/-- `setZNH` in a state whose F is that of `s`: the flags and bits 3:0 of F against `s`. -/
theorem flagsAre_setZNH {s u : State σ} (same : u.f = s.f) (w : Byte) (n h : Bool) :
    FlagsAre s (u.setZNH w n h) (w == 0) n h (s.getFlag .c) := by
  simpa only [FlagsAre, State.getFlag, same] using u.flags_setZNH w n h

theorem regsKeptBut_setZNH {s u : State σ} {rs : List R8} (kept : RegsKeptBut rs s u) (w : Byte) (n h : Bool) :
    RegsKeptBut rs s (u.setZNH w n h) :=
  fun r outside => ((u.setZNH_keeps w n h).1 r).trans (kept r outside)

@[simp] theorem rewriteByte_f (s : State) (a : Word) (w : Byte) : (rewriteByte s a w).f = s.f := rfl

@[simp] theorem rewriteByte_pc (s : State) (a : Word) (w : Byte) : (rewriteByte s a w).pc = s.pc := rfl

@[simp] theorem rewriteByte_sp (s : State) (a : Word) (w : Byte) : (rewriteByte s a w).sp = s.sp := rfl

theorem memStored_rewriteByte (s : State) (a : Word) (w : Byte) : MemStored a w s (rewriteByte s a w) :=
  State.memStored_writeByte (s.readByte referencePort a).2 a w

theorem regsKeptBut_rewriteByte (s : State) (a : Word) (w : Byte) : RegsKeptBut [] s (rewriteByte s a w) :=
  fun r _ => by simp [rewriteByte, State.readByte_eq, State.writeByte_eq]

theorem rewriteByte_accesses (s : State) (a : Word) (w : Byte) :
    (rewriteByte s a w).accesses = s.accesses ++ [.read a (s.mem.read a), .write a w] := by
  simp [rewriteByte, State.readByte_eq, State.writeByte_eq]

/-! #### How a meaning ends that wrote a byte and its flags, or a word -/

/-- A register written with the flags of its new value, then `done`. -/
theorem finish_setReg_setZNH (k : CycKey) (s : State) (r : R8) (w : Byte) (n h : Bool) :
    ∃ t, finish defaults k ((s.setReg r w).setZNH w n h) = .next t ∧ t.getReg r = w ∧
      FlagsAre s t (w == 0) n h (s.getFlag .c) ∧ RegsKeptBut [r] s t ∧ PointersKept s t ∧ MemKept s t ∧
      Issued s t (cyc k) [] := by
  obtain ⟨regs, pc, sp, mem, accesses, -⟩ := (s.setReg r w).setZNH_keeps w n h
  refine ⟨_, finish_eq defaults k _, ?_, flagsAre_setZNH (s.setReg_f r w) w n h,
    regsKeptBut_setReport (regsKeptBut_setZNH (regsKeptBut_setReg s r w) w n h) _, ⟨?_, ?_⟩, fun x => ?_, rfl, ?_⟩
  · simp [regs]
  · simp [pc]
  · simp [sp]
  · simp [mem]
  · simp [accesses]

/-- A byte read and written again with the flags of its new value, then `done`. -/
theorem finish_rewriteByte_setZNH (k : CycKey) (s : State) (a : Word) (w : Byte) (n h : Bool) :
    ∃ t, finish defaults k ((rewriteByte s a w).setZNH w n h) = .next t ∧ MemStored a w s t ∧
      FlagsAre s t (w == 0) n h (s.getFlag .c) ∧ RegsKeptBut [] s t ∧ PointersKept s t ∧
      Issued s t (cyc k) [.read a (s.mem.read a), .write a w] := by
  obtain ⟨-, pc, sp, mem, accesses, -⟩ := (rewriteByte s a w).setZNH_keeps w n h
  refine ⟨_, finish_eq defaults k _, ?_, flagsAre_setZNH (rewriteByte_f s a w) w n h,
    regsKeptBut_setReport (regsKeptBut_setZNH (regsKeptBut_rewriteByte s a w) w n h) _, ⟨?_, ?_⟩, rfl, ?_⟩
  · simpa only [MemStored, State.setReport_mem, mem] using memStored_rewriteByte s a w
  · simp [pc]
  · simp [sp]
  · simp [accesses, rewriteByte_accesses]

/-- A 16-bit operand written, then `done`: F is not touched. -/
theorem finish_setR16 (k : CycKey) (s : State) (p : R16) (v : Word) :
    ∃ t, finish defaults k (s.setR16 p v) = .next t ∧ t.getR16 p = v ∧ RegsKeptBut (R16.regs p) s t ∧
      (p ≠ .sp → t.sp = s.sp) ∧ t.f = s.f ∧ t.pc = s.pc ∧ MemKept s t ∧ Issued s t (cyc k) [] :=
  ⟨_, finish_eq defaults k _, by simp, regsKeptBut_setReport (regsKeptBut_setR16 s p v) _,
    fun other => by simp [other], by simp, by simp, fun x => by simp, rfl, by simp⟩

end Sys2Proof.Proofs
end

/-! ### The obligations of the family 42_inc_dec.md -/
section

namespace Sys2Proof.Proofs

open Machine Laws

/-- Settles O35: the form's meaning is one register write and the flags of the byte written, of which
Half-carry is the carry out of a low nibble of 0xF. -/
theorem incrementRegister : Obligations.IncrementRegister := by
  intro i r s form
  refine ⟨Instr.eq_of_form form ▸ fetchedAs_incR r, ?_⟩
  rw [exec_of_form form, meaningOfForm, incLoc_reg]
  exact finish_setReg_setZNH .incR s r _ false _

/-- Settles O36: the same for the byte at HL, which is read and written back plus 1. -/
theorem incrementCellAtHl : Obligations.IncrementCellAtHl := by
  intro s
  refine ⟨fetchedAs_of_op rfl rfl rfl, ?_⟩
  rw [exec_of_form (x := .incHlInd) rfl, meaningOfForm, incLoc_hlInd]
  exact finish_rewriteByte_setZNH .incHlInd s _ _ false _

/-- Settles O37: the form's meaning is one register write and the flags of the byte written, of which
Half-carry is the borrow into a low nibble of 0. -/
theorem decrementRegister : Obligations.DecrementRegister := by
  intro i r s form
  refine ⟨Instr.eq_of_form form ▸ fetchedAs_decR r, ?_⟩
  rw [exec_of_form form, meaningOfForm, decLoc_reg]
  exact finish_setReg_setZNH .decR s r _ true _

/-- Settles O38: the same for the byte at HL, which is read and written back minus 1. -/
theorem decrementCellAtHl : Obligations.DecrementCellAtHl := by
  intro s
  refine ⟨fetchedAs_of_op rfl rfl rfl, ?_⟩
  rw [exec_of_form (x := .decHlInd) rfl, meaningOfForm, decLoc_hlInd]
  exact finish_rewriteByte_setZNH .decHlInd s _ _ true _

/-- Settles O39: the form's meaning is one write of the operand, plus 1, and no flag write. -/
theorem incrementWord : Obligations.IncrementWord := by
  intro i p s form
  refine ⟨Instr.eq_of_form form ▸ fetchedAs_incR16 p, ?_⟩
  rw [exec_of_form form, meaningOfForm]
  exact finish_setR16 .incR16 s p (s.getR16 p + 1)

/-- Settles O40: the form's meaning is one write of the operand, minus 1, and no flag write. -/
theorem decrementWord : Obligations.DecrementWord := by
  intro i p s form
  refine ⟨Instr.eq_of_form form ▸ fetchedAs_decR16 p, ?_⟩
  rw [exec_of_form form, meaningOfForm]
  exact finish_setR16 .decR16 s p (s.getR16 p - 1)

end Sys2Proof.Proofs
end

/-! ### Lemmas for the family 43_add.md: carries as integer sums, encodings, and a sum written with its flags -/
section

namespace Sys2Proof.Proofs

open Machine Laws

variable {σ : Type}

/-! #### The formulas of R39 as sums of unbounded integers -/

/-- The low nibble is the remainder modulo 16. -/
theorem toNat_lowNibble (v : Byte) : (v &&& 0x0F#8).toNat = v.toNat % 16 :=
  (BitVec.toNat_and v 0x0F#8).trans (Nat.and_two_pow_sub_one_eq_mod v.toNat 4)

/-- Bits 11:0 are the remainder modulo 4096. -/
theorem toNat_lowTwelve (v : Word) : (v &&& 0x0FFF#16).toNat = v.toNat % 4096 :=
  (BitVec.toNat_and v 0x0FFF#16).trans (Nat.and_two_pow_sub_one_eq_mod v.toNat 12)

theorem halfAdd8_eq (a b : Byte) : halfAdd8 a b = decide (a.toNat % 16 + b.toNat % 16 ≥ 16) := by
  rw [halfAdd8, toNat_lowNibble, toNat_lowNibble]

theorem halfAdd16_eq (h r : Word) :
    halfAdd16 h r = decide (h.toNat % 4096 + r.toNat % 4096 ≥ 4096) := by
  rw [halfAdd16, toNat_lowTwelve, toNat_lowTwelve]

theorem carry8_eq (a b : Byte) : carry8 a b = decide (a.toNat + b.toNat > 255) := by
  have bound : b.toNat < 256 := b.isLt
  rw [carry8, decide_eq_decide]
  omega

theorem carry16_eq (h r : Word) : carry16 h r = decide (h.toNat + r.toNat > 0xFFFF) := by
  have bound : r.toNat < 65536 := r.isLt
  rw [carry16, decide_eq_decide]
  omega

/-- Zero looks at the sum modulo 256 (R101). -/
theorem add_beq_zero (a b : Byte) : (a + b == 0) = decide ((a.toNat + b.toNat) % 256 = 0) := by
  rw [beq_eq_decide, decide_eq_decide, ← BitVec.toNat_inj, BitVec.toNat_add]
  rfl

/-! #### The encodings (R70: 00pp1001, 10000sss) -/

theorem fetchedAs_addHlR16 (p : R16) :
    FetchedAs (Form.addHlR16 p).toInstr [0b00#2 ++ p.code ++ 0b1001#4] := by
  cases p <;> exact fetchedAs_of_op rfl rfl rfl

theorem fetchedAs_addAR (r : R8) : FetchedAs (Form.addAR r).toInstr [0b10000#5 ++ r.slot] := by
  cases r <;> exact fetchedAs_of_op rfl rfl rfl

/-! #### Reading an operand from the reference port (R64, R47) -/

/-- The accesses that reading a location issues: none for a register, one read for the cell at HL. -/
def locAccesses (s : State) : Loc → List Access
  | .reg _ => []
  | .hlInd => [.read (s.getPair .hl) (s.mem.read (s.getPair .hl))]

/-- Reading a location changes nothing but the record. -/
theorem getLoc_reference_state (s : State) (x : Loc) :
    (s.getLoc referencePort x).2 = s.withRecord (s.accesses ++ locAccesses s x) := by
  cases x with
  | reg r => rw [locAccesses, List.append_nil]; rfl
  | hlInd => rfl

/-! #### What the flag writes of an addition keep -/

/-- Carry written after the other three flags. -/
theorem flagsAre_setFlag_c {s u : State σ} {z n h c : Bool} (flags : FlagsAre s u z n h c) (v : Bool) :
    FlagsAre s (u.setFlag .c v) z n h v := by
  obtain ⟨zero, subtract, half, -, low⟩ := flags
  simp [FlagsAre, zero, subtract, half, low]

theorem regsKeptBut_setFlag {s u : State σ} {rs : List R8} (kept : RegsKeptBut rs s u) (x : Flag) (v : Bool) :
    RegsKeptBut rs s (u.setFlag x v) :=
  fun r outside => (u.getReg_setFlag x v r).trans (kept r outside)

/-- `setNHC` in a state whose F is that of `s`: the flags and bits 3:0 of F against `s`. -/
theorem flagsAre_setNHC {s u : State σ} (same : u.f = s.f) (h c : Bool) :
    FlagsAre s (u.setNHC h c) (s.getFlag .z) false h c := by
  simpa only [FlagsAre, State.getFlag, same] using u.flags_setNHC h c

theorem regsKeptBut_setNHC {s u : State σ} {rs : List R8} (kept : RegsKeptBut rs s u) (h c : Bool) :
    RegsKeptBut rs s (u.setNHC h c) :=
  fun r outside => ((u.setNHC_keeps h c).1 r).trans (kept r outside)

/-! #### How the two meanings of 43_add.md end -/

/-- A pair other than AF written with Subtract cleared and both carries given, then `done`. -/
theorem finish_setPair_setNHC (k : CycKey) (s : State) {p : Pair} (other : p ≠ .af) (v : Word) (h c : Bool) :
    ∃ t, finish defaults k ((s.setPair p v).setNHC h c) = .next t ∧ t.getPair p = v ∧
      FlagsAre s t (s.getFlag .z) false h c ∧ RegsKeptBut (Pair.regs p) s t ∧ PointersKept s t ∧
      MemKept s t ∧ Issued s t (cyc k) [] := by
  obtain ⟨regs, pc, sp, mem, accesses, -⟩ := (s.setPair p v).setNHC_keeps h c
  refine ⟨_, finish_eq defaults k _, ?_, flagsAre_setNHC (setPair_f_of_ne_af s v other) h c,
    regsKeptBut_setReport (regsKeptBut_setNHC (regsKeptBut_setPair s p v) h c) _, ⟨?_, ?_⟩, fun x => ?_, rfl, ?_⟩
  · rw [State.getPair_setReport, State.getPair_congr_regs p other regs, State.getPair_setPair_same]
  · simp [pc]
  · simp [sp]
  · simp [mem]
  · simp [accesses]

/-- A register written with all four flags, after accesses that changed only the record, then `done`. -/
theorem finish_setReg_fourFlags (k : CycKey) (s : State) (xs : List Access) (r : R8) (w : Byte) (n h c : Bool) :
    ∃ t, finish defaults k
        ((((s.withRecord (s.accesses ++ xs)).setReg r w).setZNH w n h).setFlag .c c) = .next t ∧
      t.getReg r = w ∧ FlagsAre s t (w == 0) n h c ∧ RegsKeptBut [r] s t ∧ PointersKept s t ∧ MemKept s t ∧
      Issued s t (cyc k) xs := by
  obtain ⟨regs, pc, sp, mem, accesses, -⟩ :=
    ((s.withRecord (s.accesses ++ xs)).setReg r w).setZNH_keeps w n h
  have written : RegsKeptBut [r] s ((s.withRecord (s.accesses ++ xs)).setReg r w) :=
    fun q outside => (regsKeptBut_setReg _ r w q outside).trans (s.getReg_withRecord _ q)
  refine ⟨_, finish_eq defaults k _, ?_,
    flagsAre_setFlag_c (flagsAre_setZNH (State.setReg_f _ r w) w n h) c,
    regsKeptBut_setReport (regsKeptBut_setFlag (regsKeptBut_setZNH written w n h) .c c) _, ⟨?_, ?_⟩,
    fun x => ?_, rfl, ?_⟩
  · simp [regs]
  · simp [pc]
  · simp [sp]
  · simp [mem]
  · simp [accesses]

/-- `ADD A` with an operand from any location: the sum and its four flags in integers, and the accesses of
reading that location. -/
theorem addA_effect (x : Loc) (k : CycKey) (s : State) :
    let a := s.getReg .a
    let b := (s.getLoc referencePort x).1
    ∃ t, addA defaults x k s = .next t ∧ (t.getReg .a).toNat = (a.toNat + b.toNat) % 256 ∧
      FlagsAre s t (decide ((a.toNat + b.toNat) % 256 = 0)) false
        (decide (a.toNat % 16 + b.toNat % 16 ≥ 16)) (decide (a.toNat + b.toNat > 255)) ∧
      RegsKeptBut [.a] s t ∧ PointersKept s t ∧ MemKept s t ∧ Issued s t (cyc k) (locAccesses s x) := by
  intro a b
  rw [addA, defaults_port, getLoc_reference_state, ← add_beq_zero, ← halfAdd8_eq, ← carry8_eq]
  obtain ⟨t, next, sum, rest⟩ :=
    finish_setReg_fourFlags k s (locAccesses s x) .a (a + b) false (halfAdd8 a b) (carry8 a b)
  exact ⟨t, next, sum ▸ BitVec.toNat_add a b, rest⟩

end Sys2Proof.Proofs
end

/-! ### The obligations of the family 43_add.md -/
section

namespace Sys2Proof.Proofs

open Machine Laws

/-- Settles O41: the form's meaning is one write of HL and the flags of the sum, both operands being read in
the state before. -/
theorem addWordToHl : Obligations.AddWordToHl := by
  intro i p s form h r
  refine ⟨Instr.eq_of_form form ▸ fetchedAs_addHlR16 p, ?_⟩
  rw [exec_of_form form, meaningOfForm, addHlR16, ← halfAdd16_eq, ← carry16_eq]
  exact finish_setPair_setNHC .addHlR16 s (by decide) (h + r) _ _

/-- Settles O42: the meaning of `ADD A` with a register as the operand, which is read without an access. -/
theorem addRegisterToA : Obligations.AddRegisterToA := by
  intro i r s form a b
  refine ⟨Instr.eq_of_form form ▸ fetchedAs_addAR r, ?_⟩
  rw [exec_of_form form, meaningOfForm]
  exact addA_effect (.reg r) .addAR s

/-- Settles O43: the same with the byte at HL as the operand, which is read by one access. -/
theorem addCellAtHlToA : Obligations.AddCellAtHlToA := by
  intro s a b
  refine ⟨fetchedAs_of_op rfl rfl rfl, ?_⟩
  rw [exec_of_form (x := .addAHlInd) rfl, meaningOfForm]
  exact addA_effect .hlInd .addAHlInd s

end Sys2Proof.Proofs
end

/-! ### Lemmas for the family 44_rotate_a.md: rotates as concatenations of bits, and how the meanings end -/
section

namespace Sys2Proof.Proofs

open Machine Laws

/-! #### One bit, at either end of a byte -/

theorem bitByte_eq_append (v : Bool) : bitByte v = 0#7 ++ BitVec.ofBool v := by
  cases v <;> rfl

theorem bitByte_shiftLeft_seven (v : Bool) : bitByte v <<< 7 = BitVec.ofBool v ++ 0#7 := by
  cases v <;> rfl

theorem ofBool_getLsbD (a : Byte) (i : Nat) : BitVec.ofBool (a.getLsbD i) = a.extractLsb' i 1 := by
  ext j bound
  obtain rfl : j = 0 := by omega
  simp

/-! #### A shift keeps seven bits and leaves the place the returning bit fills (R105 to R107) -/

theorem shiftLeft_one_eq_append (a : Byte) : a <<< 1 = a.extractLsb' 0 7 ++ 0#1 :=
  BitVec.shiftLeft_eq_concat_of_lt (by decide)

theorem ushiftRight_one_eq_append (a : Byte) : a >>> 1 = 0#1 ++ a.extractLsb' 1 7 :=
  BitVec.ushiftRight_eq_extractLsb'_of_lt (by decide)

theorem rotLeftCarry_eq_append (a : Byte) (k : Bool) :
    rotLeftCarry a k = a.extractLsb' 0 7 ++ BitVec.ofBool k := by
  rw [rotLeftCarry, shiftLeft_one_eq_append, bitByte_eq_append, BitVec.or_append, BitVec.or_zero,
    BitVec.zero_or]

/-- The left rotate is the one through Carry with bit 7 in the place of Carry. -/
theorem rotLeft_eq_append (a : Byte) : rotLeft a = a.extractLsb' 0 7 ++ a.extractLsb' 7 1 := by
  rw [← ofBool_getLsbD, ← rotLeftCarry_eq_append]
  rfl

theorem rotRight_eq_append (a : Byte) : rotRight a = a.extractLsb' 0 1 ++ a.extractLsb' 1 7 := by
  rw [rotRight, ushiftRight_one_eq_append, bitByte_shiftLeft_seven, BitVec.or_append, BitVec.or_zero,
    BitVec.zero_or, ofBool_getLsbD]

/-! #### How the three meanings of 44_rotate_a.md end -/

/-- A and all four flags written without an access, then `done`. -/
theorem rotateTo_effect (k : CycKey) (w : Byte) (out : Bool) (s : State) :
    ∃ t, rotateTo defaults k w out s = .next t ∧ t.getReg .a = w ∧
      FlagsAre s t (w == 0) false false out ∧ RegsKeptBut [.a] s t ∧ PointersKept s t ∧ MemKept s t ∧
      Issued s t (cyc k) [] := by
  have effect := finish_setReg_fourFlags k s [] .a w false false out
  rwa [List.append_nil] at effect

end Sys2Proof.Proofs
end

/-! ### The obligations of the family 44_rotate_a.md -/
section

namespace Sys2Proof.Proofs

open Machine Laws

/-- Settles O44: A becomes its bits 6:0 over its bit 7, which is also the Carry out. -/
theorem rotateALeftCircular : Obligations.RotateALeftCircular := by
  intro s a w
  refine ⟨fetchedAs_of_op rfl rfl rfl, ?_⟩
  rw [exec_of_form (x := .rlcA) rfl, meaningOfForm, rotLeft_eq_append]
  exact rotateTo_effect .rlcA w (a.getLsbD 7) s

/-- Settles O45: A becomes its bit 0, which is also the Carry out, over its bits 7:1. -/
theorem rotateARightCircular : Obligations.RotateARightCircular := by
  intro s a w
  refine ⟨fetchedAs_of_op rfl rfl rfl, ?_⟩
  rw [exec_of_form (x := .rrcA) rfl, meaningOfForm, rotRight_eq_append]
  exact rotateTo_effect .rrcA w (a.getLsbD 0) s

/-- Settles O46: A becomes its bits 6:0 over the Carry of the state before, and its bit 7 the new Carry. -/
theorem rotateALeftThroughCarry : Obligations.RotateALeftThroughCarry := by
  intro s a w
  refine ⟨fetchedAs_of_op rfl rfl rfl, ?_⟩
  rw [exec_of_form (x := .rlA) rfl, meaningOfForm, rotLeftCarry_eq_append]
  exact rotateTo_effect .rlA w (a.getLsbD 7) s

end Sys2Proof.Proofs
end

/-! ### Lemmas for the family 45_indirect_a.md: how a meaning ends that stored or loaded a byte, HL moved or not -/
section

namespace Sys2Proof.Proofs

open Machine Laws

variable {σ : Type}

/-! #### What a byte read and a byte write keep, on any port, and registers kept by two updates in a row -/

@[simp] theorem readByte_f (s : State σ) (port : Port σ) (a : Word) : (s.readByte port a).2.f = s.f := rfl

@[simp] theorem readByte_pc (s : State σ) (port : Port σ) (a : Word) : (s.readByte port a).2.pc = s.pc := rfl

@[simp] theorem readByte_sp (s : State σ) (port : Port σ) (a : Word) : (s.readByte port a).2.sp = s.sp := rfl

@[simp] theorem readByte_accesses (s : State σ) (port : Port σ) (a : Word) :
    (s.readByte port a).2.accesses = s.accesses ++ [.read a (port.read s.mem a).1] := rfl

@[simp] theorem readByte_reference_mem (s : State) (a : Word) : (s.readByte referencePort a).2.mem = s.mem := rfl

theorem regsKeptBut_readByte (s : State σ) (port : Port σ) (a : Word) :
    RegsKeptBut [] s (s.readByte port a).2 :=
  fun r _ => by simp [State.readByte_eq]

@[simp] theorem writeByte_f (s : State σ) (port : Port σ) (a : Word) (v : Byte) :
    (s.writeByte port a v).f = s.f := rfl

@[simp] theorem writeByte_pc (s : State σ) (port : Port σ) (a : Word) (v : Byte) :
    (s.writeByte port a v).pc = s.pc := rfl

@[simp] theorem writeByte_sp (s : State σ) (port : Port σ) (a : Word) (v : Byte) :
    (s.writeByte port a v).sp = s.sp := rfl

@[simp] theorem writeByte_accesses (s : State σ) (port : Port σ) (a : Word) (v : Byte) :
    (s.writeByte port a v).accesses = s.accesses ++ [.write a v] := rfl

theorem regsKeptBut_trans {s t u : State σ} {rs qs : List R8} (first : RegsKeptBut rs s t)
    (second : RegsKeptBut qs t u) : RegsKeptBut (rs ++ qs) s u :=
  fun r outside => (second r fun here => outside (List.mem_append_right rs here)).trans
    (first r fun here => outside (List.mem_append_left qs here))

/-! #### A byte stored (R110, R112, R114) -/

/-- A byte stored at an address, then `done`. -/
theorem finish_writeByte (k : CycKey) (s : State) (a : Word) (v : Byte) :
    ∃ t, finish defaults k (s.writeByte referencePort a v) = .next t ∧ MemStored a v s t ∧
      RegsKeptBut [] s t ∧ t.f = s.f ∧ PointersKept s t ∧ Issued s t (cyc k) [.write a v] :=
  ⟨_, finish_eq defaults k _, s.memStored_writeByte a v,
    regsKeptBut_setReport (regsKeptBut_writeByte s referencePort a v) _, by simp, ⟨by simp, by simp⟩, rfl,
    by simp⟩

/-- A stored at HL, then HL written: the address is HL before that write. -/
theorem storeAThenHl_effect (k : CycKey) (next : Word) (s : State) :
    ∃ t, storeAThenHl defaults k next s = .next t ∧ MemStored (s.getPair .hl) (s.getReg .a) s t ∧
      t.getPair .hl = next ∧ RegsKeptBut [.h, .l] s t ∧ t.f = s.f ∧ PointersKept s t ∧
      Issued s t (cyc k) [.write (s.getPair .hl) (s.getReg .a)] := by
  have stored := s.memStored_writeByte (s.getPair .hl) (s.getReg .a)
  have kept := regsKeptBut_trans (regsKeptBut_writeByte s referencePort (s.getPair .hl) (s.getReg .a))
    (regsKeptBut_setPair _ .hl next)
  rw [storeAThenHl, defaults_port]
  refine ⟨_, finish_eq defaults k _, ?_, by simp, regsKeptBut_setReport kept _, by simp,
    ⟨by simp, by simp⟩, rfl, by simp⟩
  simpa only [MemStored, State.setReport_mem, State.setPair_mem] using stored

/-! #### A byte loaded (R111, R113, R115) -/

/-- A register loaded from an address, then `done`. -/
theorem finish_readByte_setReg (k : CycKey) (s : State) (a : Word) (r : R8) :
    ∃ t, finish defaults k ((s.readByte referencePort a).2.setReg r (s.mem.read a)) = .next t ∧
      t.getReg r = s.mem.read a ∧ RegsKeptBut [r] s t ∧ t.f = s.f ∧ PointersKept s t ∧ MemKept s t ∧
      Issued s t (cyc k) [.read a (s.mem.read a)] := by
  have kept := regsKeptBut_trans (regsKeptBut_readByte s referencePort a)
    (regsKeptBut_setReg _ r (s.mem.read a))
  exact ⟨_, finish_eq defaults k _, by simp, regsKeptBut_setReport kept _, by simp, ⟨by simp, by simp⟩,
    fun x => by simp, rfl, by simp⟩

/-- A loaded from HL, then HL written: the address is HL before that write, which leaves A alone. -/
theorem loadAThenHl_effect (k : CycKey) (next : Word) (s : State) :
    ∃ t, loadAThenHl defaults k next s = .next t ∧ t.getReg .a = s.mem.read (s.getPair .hl) ∧
      t.getPair .hl = next ∧ RegsKeptBut [.a, .h, .l] s t ∧ t.f = s.f ∧ PointersKept s t ∧ MemKept s t ∧
      Issued s t (cyc k) [.read (s.getPair .hl) (s.mem.read (s.getPair .hl))] := by
  have kept := regsKeptBut_trans (regsKeptBut_readByte s referencePort (s.getPair .hl))
    (regsKeptBut_trans (regsKeptBut_setReg _ .a (s.mem.read (s.getPair .hl)))
      (regsKeptBut_setPair _ .hl next))
  rw [loadAThenHl, defaults_port]
  refine ⟨_, finish_eq defaults k _, ?_, by simp, regsKeptBut_setReport kept _, by simp,
    ⟨by simp, by simp⟩, fun x => by simp, rfl, by simp⟩
  rw [State.getReg_setReport, State.getReg_setPair _ .hl next .a (by decide), State.getReg_setReg, if_pos rfl]
  rfl

end Sys2Proof.Proofs
end

/-! ### The obligations of the family 45_indirect_a.md -/
section

namespace Sys2Proof.Proofs

open Machine Laws

/-- Settles O47: both forms mean one byte write of A at HL and then a write of HL, with the word HL plus or
minus 1 computed in the state before. -/
theorem storeAAtHlThenMoveHl : Obligations.StoreAAtHlThenMoveHl := by
  refine ⟨fetchedAs_of_op rfl rfl rfl, fetchedAs_of_op rfl rfl rfl, fun s => ?_⟩
  rw [List.forall_mem_cons, List.forall_mem_singleton, exec_of_form (x := .ldHliA) rfl,
    exec_of_form (x := .ldHldA) rfl]
  exact ⟨storeAThenHl_effect .ldHliA _ s, storeAThenHl_effect .ldHldA _ s⟩

/-- Settles O48: both forms mean one byte read at HL into A and then a write of HL, with the word HL plus or
minus 1 computed in the state before. -/
theorem loadAFromHlThenMoveHl : Obligations.LoadAFromHlThenMoveHl := by
  refine ⟨fetchedAs_of_op rfl rfl rfl, fetchedAs_of_op rfl rfl rfl, fun s => ?_⟩
  rw [List.forall_mem_cons, List.forall_mem_singleton, exec_of_form (x := .ldAHli) rfl,
    exec_of_form (x := .ldAHld) rfl]
  exact ⟨loadAThenHl_effect .ldAHli _ s, loadAThenHl_effect .ldAHld _ s⟩

/-- Settles O49: both forms mean one byte write of A at their pair, and no register write. -/
theorem storeAAtBcOrDe : Obligations.StoreAAtBcOrDe := by
  refine ⟨fetchedAs_of_op rfl rfl rfl, fetchedAs_of_op rfl rfl rfl, fun s => ?_⟩
  rw [List.forall_mem_cons, List.forall_mem_singleton, exec_of_form (x := .ldIndBcA) rfl,
    exec_of_form (x := .ldIndDeA) rfl]
  exact ⟨finish_writeByte .ldRrIndA s (s.getPair .bc) _, finish_writeByte .ldRrIndA s (s.getPair .de) _⟩

/-- Settles O50: both forms mean one byte read at their pair into A, the only register written. -/
theorem loadAFromBcOrDe : Obligations.LoadAFromBcOrDe := by
  refine ⟨fetchedAs_of_op rfl rfl rfl, fetchedAs_of_op rfl rfl rfl, fun s => ?_⟩
  rw [List.forall_mem_cons, List.forall_mem_singleton, exec_of_form (x := .ldAIndBc) rfl,
    exec_of_form (x := .ldAIndDe) rfl]
  exact ⟨finish_readByte_setReg .ldARrInd s (s.getPair .bc) .a,
    finish_readByte_setReg .ldARrInd s (s.getPair .de) .a⟩

end Sys2Proof.Proofs
end

/-! ### Lemmas for the family 46_jr.md: encodings, when a jump is taken, and how a meaning ends that wrote PC -/
section

namespace Sys2Proof.Proofs

open Machine Laws

variable {σ : Type}

/-! #### The encodings (30_encoding.md R70: 18, 001cc000) -/

theorem fetchedAs_jr (e : Byte) : FetchedAs (Form.jr e).toInstr [0b00011000#8, e] :=
  fetchedAs_of_length_two rfl rfl rfl

theorem fetchedAs_jrCc (x : Cond) (e : Byte) :
    FetchedAs (Form.jrCc x e).toInstr [0b001#3 ++ x.code ++ 0b000#3, e] := by
  cases x <;> exact fetchedAs_of_length_two rfl rfl rfl

/-! #### The displacement as an integer (00_scope.md R9), and the conditions by their flags (30_encoding.md R67) -/

theorem sext16_eq_ofInt (e : Byte) : sext16 e = BitVec.ofInt 16 e.toInt := rfl

theorem condHolds_iff (s : State σ) (x : Cond) :
    s.condHolds x = true ↔
      (x = .nz ∧ s.getFlag .z = false) ∨ (x = .z ∧ s.getFlag .z = true) ∨
      (x = .nc ∧ s.getFlag .c = false) ∨ (x = .c ∧ s.getFlag .c = true) := by
  cases x <;> simp [State.condHolds]

/-! #### The meanings as one write of PC (R120, R121) -/

theorem jumpBy_eq_finish (P : Params σ) (k : CycKey) (e : Byte) (s : State σ) :
    jumpBy P k e s = finish P k (s.setPc (s.pc + BitVec.ofInt 16 e.toInt)) := by
  rw [jumpBy, sext16_eq_ofInt]

theorem jumpIf_taken (P : Params σ) {x : Cond} (e : Byte) {s : State σ} (taken : s.condHolds x = true) :
    jumpIf P x e s = finish P .jrCcTaken (s.setPc (s.pc + BitVec.ofInt 16 e.toInt)) := by
  rw [jumpIf, if_pos taken, jumpBy_eq_finish]

/-- A jump not taken writes PC with what it already is. -/
theorem jumpIf_not_taken (P : Params σ) {x : Cond} (e : Byte) {s : State σ}
    (falls : ¬ s.condHolds x = true) : jumpIf P x e s = finish P .jrCcNotTaken (s.setPc s.pc) :=
  if_neg falls

/-- PC written, then `done`: no register, flag or byte of memory is touched and no access is issued. -/
theorem finish_setPc (k : CycKey) (s : State) (target : Word) :
    ∃ t, finish defaults k (s.setPc target) = .next t ∧ t.pc = target ∧ RegsKeptBut [] s t ∧
      t.f = s.f ∧ t.sp = s.sp ∧ MemKept s t ∧ Issued s t (cyc k) [] :=
  ⟨_, finish_eq defaults k _, by simp, fun r _ => by simp, by simp, by simp, fun x => by simp, rfl, by simp⟩

end Sys2Proof.Proofs
end

/-! ### The obligations of the family 46_jr.md -/
section

namespace Sys2Proof.Proofs

open Machine Laws

/-- Settles O51: the form's meaning is one write of PC, with PC past both bytes plus the displacement. -/
theorem jumpRelativeAddsTheDisplacement : Obligations.JumpRelativeAddsTheDisplacement := by
  intro e s
  refine ⟨fetchedAs_jr e, ?_⟩
  rw [exec_of_form (x := .jr e) rfl, meaningOfForm, jumpBy_eq_finish]
  exact finish_setPc .jr s _

/-- Settles O52: the fetch is the same either way; where the condition holds the meaning is the write of PC of
R120, and where it does not PC is written with what it already is. -/
theorem jumpRelativeOnCondition : Obligations.JumpRelativeOnCondition := by
  intro i x e s form take
  refine ⟨Instr.eq_of_form form ▸ fetchedAs_jrCc x e, ?_⟩
  rw [exec_of_form form, meaningOfForm]
  by_cases taken : s.condHolds x = true
  · have takes : take := (condHolds_iff s x).mp taken
    obtain ⟨t, next, pc, regs, f, sp, mem, issued⟩ :=
      finish_setPc .jrCcTaken s (s.pc + BitVec.ofInt 16 e.toInt)
    exact ⟨t, (jumpIf_taken defaults e taken).trans next, fun _ => ⟨pc, issued⟩,
      fun falls => absurd takes falls, regs, f, sp, mem⟩
  · have falls : ¬ take := mt (condHolds_iff s x).mpr taken
    obtain ⟨t, next, pc, regs, f, sp, mem, issued⟩ := finish_setPc .jrCcNotTaken s s.pc
    exact ⟨t, (jumpIf_not_taken defaults e taken).trans next, fun takes => absurd takes falls,
      fun _ => ⟨pc, issued⟩, regs, f, sp, mem⟩

end Sys2Proof.Proofs
end

/-! ### Lemmas for the family 47_ld_r_r.md: encodings, and a load by the kinds of its two locations -/
section

namespace Sys2Proof.Proofs

open Machine Laws

variable {σ : Type}

/-! #### The encodings (30_encoding.md R70: 01dddsss, with slot 6 in place of one of the two registers) -/

theorem fetchedAs_ldRR (dst src : R8) :
    FetchedAs (Form.ldRR dst src).toInstr [0b01#2 ++ dst.slot ++ src.slot] := by
  cases dst <;> cases src <;> exact fetchedAs_of_op rfl rfl rfl

theorem fetchedAs_ldRHlInd (dst : R8) :
    FetchedAs (Form.ldRHlInd dst).toInstr [0b01#2 ++ dst.slot ++ 0b110#3] := by
  cases dst <;> exact fetchedAs_of_op rfl rfl rfl

theorem fetchedAs_ldHlIndR (src : R8) : FetchedAs (Form.ldHlIndR src).toInstr [0b01110#5 ++ src.slot] := by
  cases src <;> exact fetchedAs_of_op rfl rfl rfl

/-! #### The meanings, by the kinds of the two locations (R125 to R127) -/

/-- `LD r,r'`: one register write, of what the source holds before it. -/
theorem ldLocLoc_reg_reg (P : Params σ) (dst src : R8) (k : CycKey) (s : State σ) :
    ldLocLoc P (.reg dst) (.reg src) k s = finish P k (s.setReg dst (s.getReg src)) := rfl

/-- `LD r,(HL)`: the byte is read before the register is written, so the address is the old HL also where the
register is H or L. -/
theorem ldLocLoc_reg_hlInd (dst : R8) (k : CycKey) (s : State) :
    ldLocLoc defaults (.reg dst) .hlInd k s = finish defaults k
      ((s.readByte referencePort (s.getPair .hl)).2.setReg dst (s.mem.read (s.getPair .hl))) := rfl

/-- `LD (HL),r`: one byte write, of the register to the cell at HL. -/
theorem ldLocLoc_hlInd_reg (P : Params σ) (src : R8) (k : CycKey) (s : State σ) :
    ldLocLoc P .hlInd (.reg src) k s = finish P k (s.writeByte P.port (s.getPair .hl) (s.getReg src)) := rfl

/-! #### How a meaning ends that wrote a register -/

/-- A register written, then `done`: F is not touched and no access is issued. -/
theorem finish_setReg (k : CycKey) (s : State) (r : R8) (v : Byte) :
    ∃ t, finish defaults k (s.setReg r v) = .next t ∧ t.getReg r = v ∧ RegsKeptBut [r] s t ∧ t.f = s.f ∧
      PointersKept s t ∧ MemKept s t ∧ Issued s t (cyc k) [] :=
  ⟨_, finish_eq defaults k _, by simp, regsKeptBut_setReport (regsKeptBut_setReg s r v) _, by simp,
    ⟨by simp, by simp⟩, fun x => by simp, rfl, by simp⟩

end Sys2Proof.Proofs
end

/-! ### The obligations of the family 47_ld_r_r.md -/
section

namespace Sys2Proof.Proofs

open Machine Laws

/-- Settles O53: the form's meaning is one register write of the value the source holds in the state before,
self-moves included. -/
theorem loadRegisterFromRegister : Obligations.LoadRegisterFromRegister := by
  intro i r r' s form
  refine ⟨Instr.eq_of_form form ▸ fetchedAs_ldRR r r', ?_⟩
  rw [exec_of_form form, meaningOfForm, ldLocLoc_reg_reg]
  exact finish_setReg .ldRR s r (s.getReg r')

/-- Settles O54: the form's meaning is one byte read at the old HL into the register, the only one written. -/
theorem loadRegisterFromCellAtHl : Obligations.LoadRegisterFromCellAtHl := by
  intro i r s form v
  refine ⟨Instr.eq_of_form form ▸ fetchedAs_ldRHlInd r, ?_⟩
  rw [exec_of_form form, meaningOfForm, ldLocLoc_reg_hlInd]
  exact finish_readByte_setReg .ldRHlInd s (s.getPair .hl) r

/-- Settles O55: the form's meaning is one byte write of the register at HL, and no register write. -/
theorem storeRegisterInCellAtHl : Obligations.StoreRegisterInCellAtHl := by
  intro i r s form
  refine ⟨Instr.eq_of_form form ▸ fetchedAs_ldHlIndR r, ?_⟩
  rw [exec_of_form form, meaningOfForm, ldLocLoc_hlInd_reg]
  exact finish_writeByte .ldHlIndR s (s.getPair .hl) (s.getReg r)

end Sys2Proof.Proofs
end

/-! ### Lemmas for the families 48_scf_ccf.md and 49_push_pop.md: flags written alone, pairs pushed and popped -/
section

namespace Sys2Proof.Proofs

open Machine Laws

variable {σ : Type}

/-! #### Flags alone (R130, R131) -/

theorem memKept_of_mem_eq {s t : State} (same : t.mem = s.mem) : MemKept s t := fun x => by rw [same]

/-- Subtract cleared, Half-carry and Carry as given, then `done`, under all parameters. -/
theorem finish_setNHC (P : Params σ) (k : CycKey) (s : State σ) (h c : Bool) :
    ∃ t, finish P k (s.setNHC h c) = .next t ∧ FlagsAre s t (s.getFlag .z) false h c ∧
      RegsKeptBut [] s t ∧ PointersKept s t ∧ t.mem = s.mem ∧ Issued s t (P.cyc k) [] := by
  obtain ⟨regs, pc, sp, mem, accesses, -⟩ := s.setNHC_keeps h c
  refine ⟨_, finish_eq P k _, s.flags_setNHC h c, regsKeptBut_setReport (fun r _ => regs r) _,
    ⟨pc, sp⟩, mem, rfl, ?_⟩
  rw [State.setReport_accesses, accesses, List.append_nil]

/-- `CCF` under all parameters, with Carry as the mode makes it. -/
theorem ccfWith_effect (P : Params σ) (s : State σ) :
    ∃ t, ccfWith P s = .next t ∧
      FlagsAre s t (s.getFlag .z) false false (ccfCarry P.ccfMode (s.getFlag .c)) ∧
      RegsKeptBut [] s t ∧ PointersKept s t ∧ t.mem = s.mem ∧ Issued s t (P.cyc .ccf) [] :=
  finish_setNHC P .ccf s false _

/-! #### What a word read and a word write keep, on any port (20_memory.md R42, R43) -/

@[simp] theorem readWord_f (s : State σ) (port : Port σ) (a : Word) : (s.readWord port a).2.f = s.f := rfl

@[simp] theorem readWord_pc (s : State σ) (port : Port σ) (a : Word) : (s.readWord port a).2.pc = s.pc := rfl

@[simp] theorem readWord_sp (s : State σ) (port : Port σ) (a : Word) : (s.readWord port a).2.sp = s.sp := rfl

theorem regsKeptBut_readWord (s : State σ) (port : Port σ) (a : Word) :
    RegsKeptBut [] s (s.readWord port a).2 :=
  regsKeptBut_trans (regsKeptBut_readByte s port a) (regsKeptBut_readByte _ port (a + 1))

@[simp] theorem writeWord_f (s : State σ) (port : Port σ) (a v : Word) : (s.writeWord port a v).f = s.f := rfl

@[simp] theorem writeWord_pc (s : State σ) (port : Port σ) (a v : Word) : (s.writeWord port a v).pc = s.pc := rfl

@[simp] theorem writeWord_sp (s : State σ) (port : Port σ) (a v : Word) : (s.writeWord port a v).sp = s.sp := rfl

theorem regsKeptBut_writeWord (s : State σ) (port : Port σ) (a v : Word) :
    RegsKeptBut [] s (s.writeWord port a v) :=
  regsKeptBut_trans (regsKeptBut_writeByte s port a (loByte v)) (regsKeptBut_writeByte _ port (a + 1) (hiByte v))

theorem regsKeptBut_setSp {s t : State σ} {rs : List R8} (kept : RegsKeptBut rs s t) (v : Word) :
    RegsKeptBut rs s (t.setSp v) :=
  fun r outside => (t.getReg_setSp v r).trans (kept r outside)

/-! #### `PUSH` (R135) -/

theorem fetchedAs_push (p : Pair) : FetchedAs (Form.push p).toInstr [0b11#2 ++ p.code ++ 0b0101#4] := by
  cases p <;> exact fetchedAs_of_op rfl rfl rfl

/-- The pair of the state before is stored below SP, in whose place nothing is read: the address after the new
SP is the old SP minus 1. -/
theorem pushPair_effect (p : Pair) (s : State) :
    ∃ t, pushPair defaults p s = .next t ∧ t.sp = s.sp - 2 ∧ MemStoredWord (s.sp - 2) (s.getPair p) s t ∧
      RegsKeptBut [] s t ∧ t.f = s.f ∧ t.pc = s.pc ∧
      Issued s t 16 [.write (s.sp - 2) (loByte (s.getPair p)), .write (s.sp - 1) (hiByte (s.getPair p))] := by
  have next : s.sp - 1 = s.sp - 2 + 1 := by ring
  have stored := (s.setSp (s.sp - 2)).memStoredWord_writeWord (s.sp - 2) (s.getPair p)
  have kept := regsKeptBut_trans (regsKeptBut_setSp (fun r _ => rfl : RegsKeptBut [] s s) (s.sp - 2))
    (regsKeptBut_writeWord _ referencePort (s.sp - 2) (s.getPair p))
  refine ⟨_, finish_eq defaults .push _, by simp, stored, regsKeptBut_setReport kept _, by simp, by simp, rfl, ?_⟩
  rw [next]
  exact State.writeWord_accesses (s.setSp (s.sp - 2)) referencePort (s.sp - 2) (s.getPair p)

/-! #### `POP` (R136, R137) -/

theorem fetchedAs_pop (p : Pair) : FetchedAs (Form.pop p).toInstr [0b11#2 ++ p.code ++ 0b0001#4] := by
  cases p <;> exact fetchedAs_of_op rfl rfl rfl

/-- The state in which `POP` writes its pair: the word at SP read, and SP past it. -/
def poppedState (port : Port σ) (s : State σ) : State σ := (s.readWord port s.sp).2.setSp (s.sp + 2)

theorem regsKeptBut_poppedState (port : Port σ) (s : State σ) : RegsKeptBut [] s (poppedState port s) :=
  regsKeptBut_setSp (regsKeptBut_readWord s port s.sp) _

@[simp] theorem poppedState_f (port : Port σ) (s : State σ) : (poppedState port s).f = s.f := rfl

@[simp] theorem poppedState_pc (port : Port σ) (s : State σ) : (poppedState port s).pc = s.pc := rfl

@[simp] theorem poppedState_sp (port : Port σ) (s : State σ) : (poppedState port s).sp = s.sp + 2 := rfl

theorem poppedState_mem (port : Port σ) (s : State σ) :
    (poppedState port s).mem = (port.read (port.read s.mem s.sp).2 (s.sp + 1)).2 :=
  readWord_mem s port s.sp

theorem poppedState_accesses (port : Port σ) (s : State σ) :
    (poppedState port s).accesses = s.accesses ++ [.read s.sp (port.read s.mem s.sp).1,
      .read (s.sp + 1) (port.read (port.read s.mem s.sp).2 (s.sp + 1)).1] :=
  readWord_accesses s port s.sp

/-- `POP` of a pair other than AF: F is not touched. -/
theorem popPair_effect {p : Pair} (other : p ≠ .af) (s : State) :
    let lo := s.mem.read s.sp
    let hi := s.mem.read (s.sp + 1)
    ∃ t, popPair defaults p s = .next t ∧ t.getPair p = joinBytes hi lo ∧ t.sp = s.sp + 2 ∧
      RegsKeptBut (Pair.regs p) s t ∧ t.f = s.f ∧ t.pc = s.pc ∧ MemKept s t ∧
      Issued s t 12 [.read s.sp lo, .read (s.sp + 1) hi] := by
  intro lo hi
  have kept := regsKeptBut_trans (regsKeptBut_poppedState referencePort s)
    (regsKeptBut_setPair _ p (joinBytes hi lo))
  refine ⟨((poppedState referencePort s).setPair p (joinBytes hi lo)).setReport (.done 12), rfl, by simp,
    by simp, regsKeptBut_setReport kept _, by simp [other], by simp, memKept_of_mem_eq ?_, rfl, ?_⟩
  · simp [poppedState_mem]
  · simp [poppedState_accesses, lo, hi]

/-- `POP AF` under all parameters, with F as the mask makes it. -/
theorem popAfWith_effect (P : Params σ) (s : State σ) :
    let lo := P.port.read s.mem s.sp
    let hi := P.port.read lo.2 (s.sp + 1)
    ∃ t, popAfWith P s = .next t ∧ t.getReg .a = hi.1 ∧ t.f = lo.1 &&& P.popAfMask.value ∧ t.sp = s.sp + 2 ∧
      RegsKeptBut [.a] s t ∧ t.pc = s.pc ∧ t.mem = hi.2 ∧
      Issued s t (P.cyc .pop) [.read s.sp lo.1, .read (s.sp + 1) hi.1] := by
  intro lo hi
  have kept := regsKeptBut_trans (regsKeptBut_poppedState P.port s) (regsKeptBut_setReg _ .a hi.1)
  have popped : popAfWith P s =
      finish P .pop (((poppedState P.port s).setReg .a hi.1).setF (lo.1 &&& P.popAfMask.value)) := by
    rw [popAfWith, readWord_value, hiByte_joinBytes, loByte_joinBytes]
    rfl
  refine ⟨_, popped.trans (finish_eq P .pop _), by simp, by simp, by simp, fun r outside => ?_, by simp, ?_,
    rfl, ?_⟩
  · simpa using kept r outside
  · simp [poppedState_mem, lo, hi]
  · simp [poppedState_accesses, lo, hi]

end Sys2Proof.Proofs
end

/-! ### The obligations of the families 48_scf_ccf.md and 49_push_pop.md -/
section

namespace Sys2Proof.Proofs

open Machine Laws

/-- Settles O56: the form's meaning is the flag write that keeps Zero. -/
theorem setCarryFlag : Obligations.SetCarryFlag := by
  refine ⟨fetchedAs_of_op rfl rfl rfl, fun s => ?_⟩
  obtain ⟨t, next, flags, regs, pointers, mem, issued⟩ := finish_setNHC defaults .scf s false true
  exact ⟨t, (exec_of_form rfl s).trans next, flags, regs, pointers, memKept_of_mem_eq mem, issued⟩

/-- Settles O57: under each mode Carry is what `ccfCarry` makes of it, and the default mode is toggle. -/
theorem complementCarryFlagUnderBothModes : Obligations.ComplementCarryFlagUnderBothModes := by
  refine ⟨fetchedAs_of_op rfl rfl rfl, fun s => ?_, fun σ P s => ?_⟩
  · obtain ⟨t, next, flags, regs, pointers, mem, issued⟩ := ccfWith_effect defaults s
    exact ⟨t, (exec_of_form rfl s).trans next, flags, regs, pointers, memKept_of_mem_eq mem, issued⟩
  · obtain ⟨t, next, flags, rest⟩ := ccfWith_effect P s
    refine ⟨t, next, fun mode => ?_, fun mode => ?_, rest⟩
    · rwa [mode] at flags
    · rwa [mode] at flags

/-- Settles O58: the form's meaning is one word write at the new SP, low byte first. -/
theorem pushStoresThePairBelowSp : Obligations.PushStoresThePairBelowSp := by
  intro i p s form v
  refine ⟨Instr.eq_of_form form ▸ fetchedAs_push p, ?_⟩
  rw [exec_of_form form]
  exact pushPair_effect p s

/-- Settles O59: the form's meaning is one word read at SP and one pair write, which leaves F alone. -/
theorem popLoadsThePairAtSp : Obligations.PopLoadsThePairAtSp := by
  intro i p s form other lo hi
  refine ⟨Instr.eq_of_form form ▸ fetchedAs_pop p, ?_⟩
  have meaning : meaningOfForm defaults (.pop p) s = popPair defaults p s := by
    cases p with
    | af => exact absurd rfl other
    | bc | de | hl => rfl
  rw [exec_of_form form, meaning]
  exact popPair_effect other s

/-- Settles O60: F is the low byte and-ed with the mask, which is all ones under `keepAll`; the default is
0xF0 behind the reference port, whose reads leave memory as it was. -/
theorem popAfLoadsAAndMaskedF : Obligations.PopAfLoadsAAndMaskedF := by
  refine ⟨fetchedAs_of_op rfl rfl rfl, fun s => ?_, fun σ P s => ?_⟩
  · obtain ⟨t, next, a, f, sp, regs, pc, mem, issued⟩ := popAfWith_effect defaults s
    exact ⟨t, (exec_of_form rfl s).trans next, a, f, sp, regs, pc, memKept_of_mem_eq mem, issued⟩
  · obtain ⟨t, next, a, f, rest⟩ := popAfWith_effect P s
    refine ⟨t, next, a, fun mask => ?_, fun mask => ?_, rest⟩
    · rw [f, mask]
      rfl
    · rw [f, mask]
      exact BitVec.and_allOnes

end Sys2Proof.Proofs
end

/-! ### Lemmas on the encoding of all instructions: decoding and encoding undo each other, and the 2-bit fields -/
section

namespace Sys2Proof.Proofs

open Machine

/-! #### Decoding what was encoded (30_encoding.md sections 2 and 4) -/

theorem decode_encode_of_opN {op n : Byte} {i : Instr} (encoded : encode i = [op, n])
    (format : formatOf op = .opN) (row : instrOf op n 0 = i) (rest : List Byte) :
    decode (encode i ++ rest) = .ok i rest := by
  rw [encoded, ← row]
  exact decode_of_opN format n rest

theorem decode_encode_of_opE {op e : Byte} {i : Instr} (encoded : encode i = [op, e])
    (format : formatOf op = .opE) (row : instrOf op e 0 = i) (rest : List Byte) :
    decode (encode i ++ rest) = .ok i rest := by
  rw [encoded, ← row]
  exact decode_of_opE format e rest

theorem decode_encode_of_opNn {op lo hi : Byte} {i : Instr} (encoded : encode i = [op, lo, hi])
    (format : formatOf op = .opNn) (row : instrOf op lo hi = i) (rest : List Byte) :
    decode (encode i ++ rest) = .ok i rest := by
  rw [encoded, ← row]
  exact decode_of_opNn format lo hi rest

/-- By the rows of R70: the operands of a row choose between opcode bytes, and its immediates come back from
the bytes that follow. Only `LD r16,nn` joins two of them again; an unassigned byte stands for itself. -/
theorem decode_encode_toInstr (x : Form) (rest : List Byte) (ok : x.toInstr.wellFormed = true) :
    decode (encode x.toInstr ++ rest) = .ok x.toInstr rest := by
  cases x with
  | ldR16Nn p nn => cases p <;> exact decode_encode_of_opNn (fetchedAs_ldR16Nn _ nn).1 rfl (instrOf_ldR16Nn _ nn) rest
  | ldRN r n => cases r <;> exact decode_encode_of_opN (fetchedAs_ldRN _ n).1 rfl rfl rest
  | ldHlN n => exact decode_encode_of_opN (fetchedAs_ldHlN n).1 rfl rfl rest
  | jr e => exact decode_encode_of_opE (fetchedAs_jr e).1 rfl rfl rest
  | jrCc x e => cases x <;> exact decode_encode_of_opE (fetchedAs_jrCc _ e).1 rfl rfl rest
  | incR r | decR r | ldRHlInd r | ldHlIndR r | addAR r => cases r <;> rfl
  | ldRR dst src => cases dst <;> cases src <;> rfl
  | incR16 p | decR16 p | addHlR16 p => cases p <;> rfl
  | push p | pop p => cases p <;> rfl
  | unassigned op =>
    have free : assigned op = false := by simpa [Form.toInstr, Instr.wellFormed] using ok
    exact decode_unassigned free rest
  | _ => rfl

theorem decode_encode (i : Instr) (rest : List Byte) (ok : i.wellFormed = true) :
    decode (encode i ++ rest) = .ok i rest := by
  rw [← i.toInstr_form] at ok ⊢
  exact decode_encode_toInstr i.form rest ok

/-! #### Encoding what was decoded -/

/-- The instruction is well-formed and these are its bytes. -/
def EncodesAs (i : Instr) (bytes : List Byte) : Prop := i.wellFormed = true ∧ encode i = bytes

theorem encodesAs_of_op {op : Byte} (format : formatOf op = .op) : EncodesAs (instrOf op 0 0) [op] := by
  have rows : ∀ b : Byte, formatOf b = .op →
      (instrOf b 0 0).wellFormed = true ∧ encode (instrOf b 0 0) = [b] := by decide
  exact rows op format

theorem encodesAs_of_opN {op : Byte} (format : formatOf op = .opN) (n : Byte) :
    EncodesAs (instrOf op n 0) [op, n] := by
  have listed : ∀ b : Byte, formatOf b = .opN → b = 0x06 ∨ b = 0x0E ∨ b = 0x16 ∨ b = 0x1E ∨ b = 0x26 ∨
      b = 0x2E ∨ b = 0x36 ∨ b = 0x3E := by decide
  rcases listed op format with rfl | rfl | rfl | rfl | rfl | rfl | rfl | rfl <;> exact ⟨rfl, rfl⟩

theorem encodesAs_of_opE {op : Byte} (format : formatOf op = .opE) (e : Byte) :
    EncodesAs (instrOf op e 0) [op, e] := by
  have listed : ∀ b : Byte, formatOf b = .opE → b = 0x18 ∨ b = 0x20 ∨ b = 0x28 ∨ b = 0x30 ∨ b = 0x38 := by
    decide
  rcases listed op format with rfl | rfl | rfl | rfl | rfl <;> exact ⟨rfl, rfl⟩

/-- The immediate word is split into the two bytes that it was joined from. -/
theorem encodesAs_of_opNn {op : Byte} (format : formatOf op = .opNn) (lo hi : Byte) :
    EncodesAs (instrOf op lo hi) [op, lo, hi] := by
  have listed : ∀ b : Byte, formatOf b = .opNn → b = 0x01 ∨ b = 0x11 ∨ b = 0x21 ∨ b = 0x31 := by decide
  have halves : [loByte (joinBytes hi lo), hiByte (joinBytes hi lo)] = [lo, hi] := by
    rw [loByte_joinBytes, hiByte_joinBytes]
  rcases listed op format with rfl | rfl | rfl | rfl <;> exact ⟨rfl, congrArg (List.cons _) halves⟩

/-- What decodes is well-formed, and its encoding is the bytes that decoding took. -/
theorem encode_of_decode {bytes rest : List Byte} {i : Instr} (decoded : decode bytes = .ok i rest) :
    i.wellFormed = true ∧ encode i ++ rest = bytes := by
  have taken {op : Byte} {operands : List Byte} (encoded : EncodesAs i (op :: operands)) :
      i.wellFormed = true ∧ encode i ++ rest = op :: (operands ++ rest) :=
    ⟨encoded.1, congrArg (· ++ rest) encoded.2⟩
  unfold decode at decoded
  split at decoded
  · cases decoded
  · split at decoded <;> cases decoded
    · next format => exact taken (encodesAs_of_op format)
    · next format => exact taken (encodesAs_of_opN format _)
    · next format => exact taken (encodesAs_of_opE format _)
    · next format => exact taken (encodesAs_of_opNn format _ _)

theorem opcode_of_decode {op : Byte} {more rest : List Byte} {i : Instr}
    (decoded : decode (op :: more) = .ok i rest) : i.opcode = op := by
  obtain ⟨-, bytes⟩ := encode_of_decode decoded
  exact (List.cons.inj bytes).1

/-- Only an unassigned byte decodes to the unassigned instruction, and each one does. -/
theorem decode_eq_unassigned_iff {op : Byte} {more rest : List Byte} {i : Instr}
    (decoded : decode (op :: more) = .ok i rest) : i = .unassigned op ↔ assigned op = false := by
  constructor
  · rintro rfl
    simpa [Instr.wellFormed] using (encode_of_decode decoded).1
  · intro free
    exact (Decoded.ok.inj (decoded.symm.trans (decode_unassigned free more))).1

/-! #### The 2-bit fields (R65, R66, R67) -/

/-- The 16-bit operand that a form names in op[5:4]. -/
def r16Of : Form → Option R16
  | .ldR16Nn p _ | .incR16 p | .decR16 p | .addHlR16 p => some p
  | _ => none

/-- The immediate word has no part in the opcode byte. -/
theorem opcode_ldR16Nn (p : R16) (nn : Word) :
    (Form.ldR16Nn p nn).toInstr.opcode = (Form.ldR16Nn p 0).toInstr.opcode := by
  cases p <;> rfl

/-- The displacement has no part in the opcode byte. -/
theorem opcode_jrCc (x : Cond) (e : Byte) :
    (Form.jrCc x e).toInstr.opcode = (Form.jrCc x 0).toInstr.opcode := by
  cases x <;> rfl

theorem decodeR16_fieldPP_of_form {i : Instr} {x : Form} {p : R16} (form : i.form = x)
    (operand : r16Of x = some p) : decodeR16 (fieldPP i.opcode) = p := by
  rw [Instr.eq_of_form form]
  cases x with
  | ldR16Nn q nn => cases operand; rw [opcode_ldR16Nn]; cases p <;> rfl
  | incR16 q | decR16 q | addHlR16 q => cases operand; cases p <;> rfl
  | _ => cases operand

theorem decodePair_fieldPP_of_form {i : Instr} {q : Pair} (form : i.form = .push q ∨ i.form = .pop q) :
    decodePair (fieldPP i.opcode) = q ∧ fieldQ i.opcode = false := by
  rcases form with form | form <;> rw [Instr.eq_of_form form] <;> cases q <;> exact ⟨rfl, rfl⟩

theorem decodeCond_fieldCC_of_form {i : Instr} {x : Cond} {e : Byte} (form : i.form = .jrCc x e) :
    decodeCond (fieldCC i.opcode) = x ∧ i.opcode.getLsbD 5 = true := by
  rw [Instr.eq_of_form form, opcode_jrCc]
  cases x <;> exact ⟨rfl, rfl⟩

/-! #### A step by the bytes at PC (R60) -/

/-- The fetch takes the bytes that the decoder takes. -/
theorem step_of_decode {s : State} {i : Instr} {rest : List Byte} (decoded : decode (bytesAtPc s) = .ok i rest) :
    step s = exec i (fetchedState s i.length) := by
  rw [Instr.length, opcode_of_decode decoded, step_eq]
  cases format : formatOf (s.mem.read s.pc) with
  | op =>
    obtain ⟨rfl, -⟩ := Decoded.ok.inj ((decode_of_op format _).symm.trans decoded)
    rw [fetchInstr_of_op (s := s.withRecord []) format]
    rfl
  | opN =>
    obtain ⟨rfl, -⟩ := Decoded.ok.inj ((decode_of_opN format _ _).symm.trans decoded)
    rw [fetchInstr_of_length_two (s := s.withRecord []) (congrArg Format.length format)]
    rfl
  | opE =>
    obtain ⟨rfl, -⟩ := Decoded.ok.inj ((decode_of_opE format _ _).symm.trans decoded)
    rw [fetchInstr_of_length_two (s := s.withRecord []) (congrArg Format.length format)]
    rfl
  | opNn =>
    obtain ⟨rfl, -⟩ := Decoded.ok.inj ((decode_of_opNn format _ _ _).symm.trans decoded)
    rw [fetchInstr_of_length_three (s := s.withRecord []) (congrArg Format.length format)]
    rfl

end Sys2Proof.Proofs
end

/-! ### The obligations on the encoding of all instructions -/
section

namespace Sys2Proof.Proofs

open Machine

/-- Settles O4, by the rows of R70. -/
theorem decodeGivesBackWhatWasEncoded : Obligations.DecodeGivesBackWhatWasEncoded :=
  decode_encode

/-- Settles O5, by the format of the first byte: each opcode byte of a format encodes what was read from it. -/
theorem encodingIsTheBytesDecoded : Obligations.EncodingIsTheBytesDecoded :=
  fun _ _ _ => encode_of_decode

/-- Settles O6: three bytes always decode, the opcode byte is the first one because encoding gives it back, and
the unassigned instruction is well-formed for an unassigned byte only. -/
theorem decodeIsTotalAndSplitsTheTwoSets : Obligations.DecodeIsTotalAndSplitsTheTwoSets := by
  refine ⟨fun op n1 n2 rest => ?_, by decide +kernel⟩
  obtain ⟨i, decoded⟩ := decode_consumes_format_length op n1 n2 rest
  exact ⟨i, _, decoded, opcode_of_decode decoded, decode_eq_unassigned_iff decoded⟩

/-- Settles O9: the orders are the decoders' tables; a form with a 2-bit operand has its code in the field. -/
theorem twoBitFieldsSelectPairsAndConditions : Obligations.TwoBitFieldsSelectPairsAndConditions := by
  refine ⟨rfl, rfl, rfl, fun i p q x nn e => ⟨?_, decodePair_fieldPP_of_form, decodeCond_fieldCC_of_form⟩⟩
  rintro (form | form | form | form) <;> exact decodeR16_fieldPP_of_form form rfl

/-- Settles O3: each word is decoded by evaluation. -/
theorem specWordsDecodeAsTheGridSays : Obligations.SpecWordsDecodeAsTheGridSays := by
  unfold Obligations.SpecWordsDecodeAsTheGridSays
  decide

/-- Settles O14: what decodes is well-formed, and the fetch takes the bytes that the decoder takes. -/
theorem stepRunsTheDecodedInstruction : Obligations.StepRunsTheDecodedInstruction :=
  fun _ _ _ decoded => ⟨(encode_of_decode decoded).1, step_of_decode decoded⟩

end Sys2Proof.Proofs
end

/-! ### Lemmas on flag formulas, on what a step reports and on its record of accesses -/
section

namespace Sys2Proof.Proofs

open Machine Laws

variable {σ : Type}

/-! #### The formulas of R39 as bits of the sum -/

/-- A carry into bit `i` is where the sum differs from the bitwise sum of the operands. -/
theorem getLsbD_xor_xor_add {w : Nat} (x y : BitVec w) {i : Nat} (inside : i < w) :
    (x ^^^ y ^^^ (x + y)).getLsbD i = decide (x.toNat % 2 ^ i + y.toNat % 2 ^ i ≥ 2 ^ i) := by
  have cancel : ∀ p q c : Bool, ((p ^^ q) ^^ (p ^^ (q ^^ c))) = c := by decide
  rw [BitVec.getLsbD_xor, BitVec.getLsbD_xor, BitVec.getLsbD_add inside, cancel]
  rfl

theorem halfSub8_eq (a b : Byte) : halfSub8 a b = decide (a.toNat % 16 < b.toNat % 16) := by
  rw [halfSub8, toNat_lowNibble, toNat_lowNibble]

/-- The other wording of the half-borrow: adding 16 minus the nibble does not reach 16. -/
theorem lt_iff_complement_lt (m n : Nat) : m % 16 < n % 16 ↔ m % 16 + (16 - n % 16) < 16 := by
  omega

/-! #### What a step reports (00_scope.md R13) -/

/-- Under all parameters a step completes, with `done` exactly at an assigned byte and else with the byte and
its address. -/
theorem stepWith_report (P : Params σ) (s : State σ) :
    ∃ t, stepWith P s = .next t ∧
      ((∃ cost, t.report = .done cost) ↔ assigned (P.port.read s.mem s.pc).1 = true) ∧
      (assigned (P.port.read s.mem s.pc).1 = false →
        t.report = .unassigned (P.port.read s.mem s.pc).1 s.pc) := by
  cases set : assigned (P.port.read s.mem s.pc).1 with
  | true =>
    obtain ⟨k, u, -, done⟩ := stepWith_of_assigned set
    exact ⟨_, done.trans (finish_eq P k u), by simp, by simp⟩
  | false =>
    obtain ⟨t, next, -, -, -, -, -, -, report, -⟩ := stepWith_unassigned_frame set
    exact ⟨t, next, by simp [report], fun _ => report⟩

/-- The cost is 0 at an unassigned byte, and at any other the table's for some assigned key. -/
theorem stepWith_cost {P : Params σ} {s t : State σ} (next : stepWith P s = .next t) :
    (assigned (P.port.read s.mem s.pc).1 = false ∧ t.report.cost = some 0) ∨
      (assigned (P.port.read s.mem s.pc).1 ≠ false ∧
        ∃ k, k ≠ .unassigned ∧ t.report.cost = some (P.cyc k)) := by
  cases set : assigned (P.port.read s.mem s.pc).1 with
  | true =>
    obtain ⟨k, u, key, done⟩ := stepWith_of_assigned set
    rw [next, finish_eq, Host.Outcome.next.injEq] at done
    exact .inr ⟨nofun, k, key, by rw [done]; rfl⟩
  | false =>
    obtain ⟨u, next', -, -, -, -, -, -, -, cost⟩ := stepWith_unassigned_frame set
    obtain rfl := Host.Outcome.next.inj (next.symm.trans next')
    exact .inl ⟨rfl, cost⟩

/-- The default table is one that R171 allows. -/
theorem cycOk_cyc : CycOk cyc where
  unassigned := rfl
  assigned := cyc_ge_four
  ldR16Nn := rfl
  ldRN := rfl
  jrCc := by decide

/-- The default costs of the assigned instructions (R170). -/
theorem cyc_mem_of_ne_unassigned {k : CycKey} (key : k ≠ .unassigned) : cyc k ∈ [4, 8, 12, 16] := by
  cases k with
  | unassigned => exact absurd rfl key
  | _ => decide

/-! #### The record of a step (20_memory.md R46, R47, R50) -/

/-- The record's accesses, issued to the port from the state `m`, are answered as recorded and leave the port
as it is now. -/
def RecordAnswered (port : Port σ) (m : σ) (s : State σ) : Prop := PortAnswers port m s.accesses s.mem

/-- Each port operation adds its access to the record and leaves the port as that access does. -/
theorem portStable_recordAnswered (port : Port σ) (m : σ) : PortStable port (RecordAnswered port m) where
  congr s t mem accesses answered := by rwa [RecordAnswered, mem, accesses]
  read s a answered := (portAnswers_append port m _ s.accesses _).mpr ⟨s.mem, answered, rfl, rfl⟩
  write s a v answered := (portAnswers_append port m _ s.accesses _).mpr ⟨s.mem, answered, rfl⟩

theorem stepWith_recordAnswered {P : Params σ} {s t : State σ} (next : stepWith P s = .next t) :
    PortAnswers P.port s.mem t.accesses t.mem :=
  stepWith_keeps (portStable_recordAnswered P.port s.mem) s t rfl next

/-- What the reference port answers and leaves is what the record alone says. -/
theorem reference_accounts {m m' : Memory} {xs : List Access} (answered : PortAnswers referencePort m xs m') :
    RecordFits m.read xs ∧ ∀ x, m'.read x = lastWritten x (m.read x) xs := by
  induction xs generalizing m with
  | nil =>
    obtain rfl : m' = m := answered
    exact ⟨trivial, fun _ => rfl⟩
  | cons access rest ih =>
    cases access with
    | read a v =>
      obtain ⟨value, answered⟩ := answered
      obtain ⟨fits, last⟩ := ih answered
      exact ⟨⟨value, fits⟩, last⟩
    | write a v =>
      have stored : (referencePort.write m a v).read = fun x => if a = x then v else m.read x := by
        funext x
        rw [referencePort_write, Memory.read_write]
        exact if_congr eq_comm rfl rfl
      obtain ⟨fits, last⟩ := ih answered
      simp only [stored] at fits last
      exact ⟨fits, last⟩

theorem step_accounts {s t : State} (next : step s = .next t) :
    RecordFits s.mem.read t.accesses ∧ ∀ x, t.mem.read x = lastWritten x (s.mem.read x) t.accesses := by
  rw [step_eq_stepWith] at next
  exact reference_accounts (stepWith_recordAnswered next)

/-! #### The canonical form of memory (the model's own, log entry 1) -/

/-- Reads leave the array as it is, and a write keeps the form. -/
theorem portStable_wf : PortStable referencePort (fun s => s.mem.wf) where
  congr _ _ mem _ ok := mem ▸ ok
  read _ _ ok := ok
  write s a v ok := Memory.wf_write s.mem a v ok

end Sys2Proof.Proofs
end

/-! ### The obligations on flags, completion, cost and the record of a step -/
section

namespace Sys2Proof.Proofs

open Machine Laws

/-- Settles O19: memory is reached by port operations alone, and the port's write keeps the form. -/
theorem everyStepKeepsMemoryCanonical : Obligations.EveryStepKeepsMemoryCanonical := by
  intro s t ok next
  rw [step_eq_stepWith] at next
  exact stepWith_keeps portStable_wf s t ok next

/-- Settles O26: every port operation records itself, and on the reference port a record determines what is
read and what is left. -/
theorem recordedAccessesAccountForMemory : Obligations.RecordedAccessesAccountForMemory :=
  ⟨fun _ _ _ _ => stepWith_recordAnswered, fun _ _ => step_accounts⟩

/-- Settles O11: the masks are the flags' bits, and the frame is that of the F write. -/
theorem flagWritesTouchTheirBitOnly : Obligations.FlagWritesTouchTheirBitOnly := by
  intro s x v
  exact ⟨⟨rfl, rfl, rfl, rfl⟩, ⟨rfl, rfl, rfl, rfl, rfl, rfl, rfl, rfl⟩, s.getLsbD_setFlag x v,
    fun r _ => s.getReg_setFlag x v r, ⟨rfl, rfl⟩, rfl⟩

/-- Settles O12: each carry is the bit in which the sum differs from the bitwise sum. -/
theorem flagFormulasAreCarriesAndBorrows : Obligations.FlagFormulasAreCarriesAndBorrows := by
  refine ⟨fun a b => ⟨halfAdd8_eq a b, ?_, halfSub8_eq a b, ?_, carry8_eq a b⟩,
    fun h r => ⟨halfAdd16_eq h r, ?_, carry16_eq h r⟩⟩
  · exact (halfAdd8_eq a b).trans (getLsbD_xor_xor_add a b (i := 4) (by decide)).symm
  · rw [halfSub8_eq, decide_eq_decide, lt_iff_complement_lt]
  · exact (halfAdd16_eq h r).trans (getLsbD_xor_xor_add h r (i := 12) (by decide)).symm

/-- Settles O15: at the defaults the step and the meanings are the parametric ones, which all complete. -/
theorem everyStepAndInstructionCompletes : Obligations.EveryStepAndInstructionCompletes := by
  refine ⟨fun s => ?_, fun i s => ?_, fun σ P s => stepWith_report P s, fun σ P => execWith_completes P⟩
  · rw [step_eq_stepWith]
    exact stepWith_report defaults s
  · rw [exec_eq_execWith]
    exact execWith_completes defaults i s

/-- Settles O16: the cost is the table's for an assigned key, of which R171 bounds every table and R170 gives
the default. -/
theorem costIsZeroExactlyForUnassigned : Obligations.CostIsZeroExactlyForUnassigned := by
  refine ⟨fun σ P s t table next => ?_, cycOk_cyc, fun s t next => ?_⟩
  · obtain ⟨free, cost⟩ | ⟨taken, k, key, cost⟩ := stepWith_cost next
    · exact ⟨0, cost, iff_of_true rfl free, by simp⟩
    · have least := table.assigned k key
      exact ⟨P.cyc k, cost, iff_of_false (by omega) taken, fun _ => least⟩
  · rw [step_eq_stepWith] at next
    obtain ⟨free, cost⟩ | ⟨taken, k, key, cost⟩ := stepWith_cost next
    · exact ⟨0, cost, iff_of_true rfl free, by simp⟩
    · have least := cyc_ge_four k key
      exact ⟨cyc k, cost, iff_of_false (by omega) taken, fun _ => cyc_mem_of_ne_unassigned key⟩

/-- Settles O28: the second step's first access is the opcode fetch, and the first step's record says what it
finds. -/
theorem storeIsSeenByTheNextFetch : Obligations.StoreIsSeenByTheNextFetch := by
  intro s t u next next'
  obtain ⟨v, same, fetch⟩ := stepWith_first_access defaults t
  rw [← step_eq_stepWith, next'] at same
  obtain rfl := Host.Outcome.next.inj same
  obtain ⟨-, last⟩ := step_accounts next
  rw [fetch, ← last]
  rfl

/-- Settles O2: memory lists nothing, F is zero and nothing is recorded. -/
theorem invariantsHoldAtReset : Obligations.InvariantsHoldAtReset :=
  ⟨State.wf_reset, rfl, trivial⟩

end Sys2Proof.Proofs
end

/-! ### Lemmas on what a meaning writes of PC, SP and F, form by form -/
section

namespace Sys2Proof.Proofs

open Machine Laws

variable {σ : Type}

/-! #### Locations and flag writes: PC, SP and F -/

@[simp] theorem getLoc_f (s : State σ) (port : Port σ) (x : Loc) : (s.getLoc port x).2.f = s.f := by
  cases x <;> rfl

@[simp] theorem getLoc_pc (s : State σ) (port : Port σ) (x : Loc) : (s.getLoc port x).2.pc = s.pc := by
  cases x <;> rfl

@[simp] theorem getLoc_sp (s : State σ) (port : Port σ) (x : Loc) : (s.getLoc port x).2.sp = s.sp := by
  cases x <;> rfl

@[simp] theorem setLoc_f (s : State σ) (port : Port σ) (x : Loc) (v : Byte) : (s.setLoc port x v).f = s.f := by
  cases x <;> simp [State.setLoc_eq]

@[simp] theorem setLoc_pc (s : State σ) (port : Port σ) (x : Loc) (v : Byte) : (s.setLoc port x v).pc = s.pc := by
  cases x <;> simp [State.setLoc_eq]

@[simp] theorem setLoc_sp (s : State σ) (port : Port σ) (x : Loc) (v : Byte) : (s.setLoc port x v).sp = s.sp := by
  cases x <;> simp [State.setLoc_eq]

@[simp] theorem setZNH_pc (s : State σ) (w : Byte) (n h : Bool) : (s.setZNH w n h).pc = s.pc := rfl

@[simp] theorem setZNH_sp (s : State σ) (w : Byte) (n h : Bool) : (s.setZNH w n h).sp = s.sp := rfl

@[simp] theorem setNHC_pc (s : State σ) (h c : Bool) : (s.setNHC h c).pc = s.pc := rfl

@[simp] theorem setNHC_sp (s : State σ) (h c : Bool) : (s.setNHC h c).sp = s.sp := rfl

@[simp] theorem setZNH_low (s : State σ) (w : Byte) (n h : Bool) :
    (s.setZNH w n h).f &&& 0x0F#8 = s.f &&& 0x0F#8 := by
  simp [State.setZNH]

@[simp] theorem setNHC_low (s : State σ) (h c : Bool) : (s.setNHC h c).f &&& 0x0F#8 = s.f &&& 0x0F#8 := by
  simp [State.setNHC]

@[simp] theorem getFlag_setZNH_c (s : State σ) (w : Byte) (n h : Bool) :
    (s.setZNH w n h).getFlag .c = s.getFlag .c := by
  simp [State.setZNH]

@[simp] theorem getFlag_setNHC_z (s : State σ) (h c : Bool) : (s.setNHC h c).getFlag .z = s.getFlag .z := by
  simp [State.setNHC]

/-- A flag depends on F alone. -/
theorem getFlag_congr {s t : State σ} (same : t.f = s.f) (x : Flag) : t.getFlag x = s.getFlag x := by
  rw [State.getFlag, State.getFlag, same]

/-! #### Two meanings as one `finish` -/

/-- Taken or not, a conditional jump is one write of PC: the displacement is added, or 0 is. -/
theorem jumpIf_eq_finish (P : Params σ) (x : Cond) (e : Byte) (s : State σ) :
    jumpIf P x e s = finish P (if s.condHolds x then .jrCcTaken else .jrCcNotTaken)
      (s.setPc (s.pc + if s.condHolds x then sext16 e else 0)) := by
  unfold jumpIf
  split
  · rfl
  · exact congrArg (finish P _ <| s.setPc ·) (BitVec.add_zero s.pc).symm

/-- The state in which `finish` was called, but for the report. -/
theorem eq_of_finish {P : Params σ} {k : CycKey} {s t : State σ} (next : finish P k s = .next t) :
    t = s.setReport (.done (P.cyc k)) :=
  (Host.Outcome.next.inj next).symm

/-! #### PC (10_state.md R30, 46_jr.md R122) -/

/-- What a meaning adds to PC, which is past the instruction already. -/
def pcDisplacement (s : State σ) : Form → Word
  | .jr e => e.signExtend 16
  | .jrCc x e => if s.condHolds x then e.signExtend 16 else 0
  | _ => 0

theorem meaningOfForm_pc {P : Params σ} {x : Form} {s t : State σ} (next : meaningOfForm P x s = .next t) :
    t.pc = s.pc + pcDisplacement s x := by
  cases x with
  | jr e => rw [eq_of_finish next]; rfl
  | jrCc x e =>
    rw [meaningOfForm, jumpIf_eq_finish] at next
    rw [eq_of_finish next]
    rfl
  | pop p =>
    change t.pc = s.pc + 0
    cases p <;> simp [eq_of_finish next]
  | unassigned op =>
    rw [← Host.Outcome.next.inj next]
    exact (BitVec.add_zero s.pc).symm
  | _ =>
    change t.pc = s.pc + 0
    simp [eq_of_finish next]

theorem condHolds_congr {s t : State σ} (same : t.f = s.f) (x : Cond) : t.condHolds x = s.condHolds x := by
  cases x <;> simp [State.condHolds, getFlag_congr same]

/-- The displacement depends on F alone, by the condition. -/
theorem pcDisplacement_congr {s t : State σ} (same : t.f = s.f) (x : Form) :
    pcDisplacement t x = pcDisplacement s x := by
  cases x with
  | jrCc x e => simp only [pcDisplacement, condHolds_congr same]
  | _ => rfl

/-! #### SP (10_state.md R31) -/

/-- What a meaning leaves in SP. -/
def spAfter (s : State σ) : Form → Word
  | .ldR16Nn .sp nn => nn
  | .incR16 .sp => s.sp + 1
  | .decR16 .sp => s.sp - 1
  | .push _ => s.sp - 2
  | .pop _ => s.sp + 2
  | _ => s.sp

theorem meaningOfForm_sp {P : Params σ} {x : Form} {s t : State σ} (next : meaningOfForm P x s = .next t) :
    t.sp = spAfter s x := by
  cases x with
  | ldR16Nn p nn | incR16 p | decR16 p => rw [eq_of_finish next]; cases p <;> rfl
  | push p => rw [eq_of_finish next]; rfl
  | pop p => cases p <;> (rw [eq_of_finish next]; rfl)
  | jrCc x e =>
    rw [meaningOfForm, jumpIf_eq_finish] at next
    rw [eq_of_finish next]
    rfl
  | unassigned op => rw [← Host.Outcome.next.inj next]; rfl
  | _ =>
    change t.sp = s.sp
    simp [eq_of_finish next]

/-! #### F (10_state.md R28, R29) -/

/-- Bits 3:0 of F are no flag, and no meaning but `POP AF` writes F otherwise than by flags. -/
theorem meaningOfForm_low {P : Params σ} {x : Form} {s t : State σ} (next : meaningOfForm P x s = .next t)
    (other : x ≠ .pop .af) : t.f &&& 0x0F#8 = s.f &&& 0x0F#8 := by
  cases x with
  | pop p =>
    cases p with
    | af => exact absurd rfl other
    | bc | de | hl => simp [eq_of_finish next]
  | jrCc x e =>
    rw [meaningOfForm, jumpIf_eq_finish] at next
    rw [eq_of_finish next]
    rfl
  | unassigned op => rw [← Host.Outcome.next.inj next]; rfl
  | _ => simp [eq_of_finish next]

/-- `POP AF` leaves a byte and-ed with the mask, so bits 3:0 of F are 0 under the mask 0xF0. -/
theorem popAfWith_low {P : Params σ} (mask : P.popAfMask = .keepHigh) {s t : State σ}
    (next : popAfWith P s = .next t) : t.f &&& 0x0F#8 = 0 := by
  obtain ⟨u, next', -, f, -⟩ := popAfWith_effect P s
  obtain rfl := Host.Outcome.next.inj (next.symm.trans next')
  rw [f, mask, BitVec.and_assoc]
  exact BitVec.and_zero

theorem fetchInstr_f (s : State σ) (port : Port σ) : (s.fetchInstr port).2.f = s.f := by
  rw [State.fetchInstr_eq]
  dsimp only
  split <;> rfl

theorem stepWith_low {P : Params σ} (mask : P.popAfMask = .keepHigh) {s t : State σ}
    (zero : s.f &&& 0x0F#8 = 0) (next : stepWith P s = .next t) : t.f &&& 0x0F#8 = 0 := by
  rw [stepWith_eq, execWith] at next
  by_cases popAf : ((s.withRecord []).fetchInstr P.port).1.form = .pop .af
  · rw [popAf] at next
    exact popAfWith_low mask next
  · rw [meaningOfForm_low next popAf, fetchInstr_f]
    exact zero

/-- The flags that a meaning does not write (R29). -/
def FlagsKept (s t : State σ) : Form → Prop
  | .incR _ | .incHlInd | .decR _ | .decHlInd => t.getFlag .c = s.getFlag .c
  | .addHlR16 _ | .scf | .ccf => t.getFlag .z = s.getFlag .z
  | .addAR _ | .addAHlInd | .rlcA | .rrcA | .rlA | .pop .af => True
  | _ => t.f = s.f

theorem meaningOfForm_flagsKept {P : Params σ} {x : Form} {s t : State σ}
    (next : meaningOfForm P x s = .next t) : FlagsKept s t x := by
  cases x with
  | incR r | decR r | incHlInd | decHlInd =>
    change t.getFlag .c = s.getFlag .c
    rw [eq_of_finish next, State.getFlag_setReport, getFlag_setZNH_c]
    exact getFlag_congr (by simp) .c
  | addHlR16 p =>
    change t.getFlag .z = s.getFlag .z
    rw [eq_of_finish next, State.getFlag_setReport, getFlag_setNHC_z]
    exact getFlag_congr (by simp) .z
  | scf | ccf => exact (congrArg (State.getFlag · .z) (eq_of_finish next)).trans (getFlag_setNHC_z s _ _)
  | addAR r | addAHlInd | rlcA | rrcA | rlA => trivial
  | pop p =>
    cases p with
    | af => trivial
    | bc | de | hl =>
      change t.f = s.f
      simp [eq_of_finish next]
  | jrCc x e =>
    rw [meaningOfForm, jumpIf_eq_finish] at next
    rw [eq_of_finish next]
    rfl
  | unassigned op => rw [← Host.Outcome.next.inj next]; rfl
  | _ =>
    change t.f = s.f
    simp [eq_of_finish next]

end Sys2Proof.Proofs
end

/-! ### The obligations on what a meaning writes of PC, SP and F -/
section

namespace Sys2Proof.Proofs

open Machine Laws

/-- Settles O20: no meaning but `POP AF` changes bits 3:0 of F, and under the mask 0xF0 that one clears them. -/
theorem lowBitsOfFStayZero : Obligations.LowBitsOfFStayZero := by
  refine ⟨fun s t zero next => ?_, fun σ P s t mask => stepWith_low mask⟩
  rw [step_eq_stepWith] at next
  exact stepWith_low rfl zero next

/-- Settles O22: the fetch leaves PC past the instruction's bytes, and the meaning adds its displacement. -/
theorem onlyRelativeJumpsMovePcElsewhere : Obligations.OnlyRelativeJumpsMovePcElsewhere := by
  intro s t i rest decoded next
  rw [step_of_decode decoded, exec_eq_meaningOfForm] at next
  have pc := meaningOfForm_pc next
  rwa [pcDisplacement_congr (t := fetchedState s i.length) (s := s) rfl] at pc

/-- Settles O23, by the form of the instruction. -/
theorem onlyFiveInstructionsWriteSp : Obligations.OnlyFiveInstructionsWriteSp := by
  intro i s t next
  rw [exec_eq_meaningOfForm] at next
  exact meaningOfForm_sp next

/-- Settles O24, by the form of the instruction. -/
theorem flagsOutsideTheTableKeepTheirValue : Obligations.FlagsOutsideTheTableKeepTheirValue := by
  intro i s t next
  rw [exec_eq_meaningOfForm] at next
  exact ⟨meaningOfForm_low next, meaningOfForm_flagsKept next⟩

end Sys2Proof.Proofs
end

/-! ### Lemmas on sequences of instructions (95_test_vectors.md section 2.11) -/
section

namespace Sys2Proof.Proofs

open Machine Laws

variable {σ : Type}

/-! #### `PUSH` then `POP` -/

theorem joinBytes_inj {hi lo hi' lo' : Byte} : joinBytes hi lo = joinBytes hi' lo' ↔ hi = hi' ∧ lo = lo' := by
  constructor
  · intro same
    exact ⟨by simpa using congrArg hiByte same, by simpa using congrArg loByte same⟩
  · rintro ⟨rfl, rfl⟩
    rfl

theorem regsKeptBut_of_cons {s t : State σ} {q : R8} {rs : List R8} (kept : RegsKeptBut (q :: rs) s t)
    (same : t.getReg q = s.getReg q) : RegsKeptBut rs s t := by
  intro r outside
  by_cases here : r = q
  · exact here ▸ same
  · exact kept r (by simp [here, outside])

/-- Two states that agree on a pair and on every register outside it agree on every register. -/
theorem regsKeptBut_nil_of_getPair {s t : State σ} {p : Pair} (kept : RegsKeptBut (Pair.regs p) s t)
    (pair : t.getPair p = s.getPair p) : RegsKeptBut [] s t := by
  cases p with
  | bc | de | hl =>
    obtain ⟨high, low⟩ := joinBytes_inj.mp pair
    exact regsKeptBut_of_cons (regsKeptBut_of_cons kept high) low
  | af =>
    obtain ⟨high, -⟩ := joinBytes_inj.mp pair
    exact regsKeptBut_of_cons kept high

/-- A byte whose bits 3:0 are zero is not changed by the mask 0xF0. -/
theorem and_highNibble_of_low_zero {f : Byte} (zero : f &&& 0x0F#8 = 0#8) : f &&& 0xF0#8 = f := by
  have whole : f &&& 0xF0#8 ||| f &&& 0x0F#8 = f := by
    rw [← BitVec.and_or_distrib_left]
    exact BitVec.and_allOnes
  rwa [zero, BitVec.or_zero] at whole

/-- `POP` where the pair as it was in `s` has been stored at SP, and no register has changed since: every
register and F are as in `s`. Only F goes through a mask, which bits 3:0 of zero make harmless. -/
theorem pop_of_memStoredWord {p : Pair} {s t : State} (stored : MemStoredWord t.sp (s.getPair p) s t)
    (kept : RegsKeptBut [] s t) (f : t.f = s.f) (low : p = .af → s.f &&& 0x0F#8 = 0) :
    ∃ u, meaningOfForm defaults (.pop p) t = .next u ∧ RegsKeptBut [] s u ∧ u.f = s.f ∧ u.sp = t.sp + 2 := by
  obtain ⟨lo, hi, -⟩ := stored
  have pop_other (other : p ≠ .af) (meaning : meaningOfForm defaults (.pop p) t = popPair defaults p t) :
      ∃ u, meaningOfForm defaults (.pop p) t = .next u ∧ RegsKeptBut [] s u ∧ u.f = s.f ∧
        u.sp = t.sp + 2 := by
    obtain ⟨u, next, pair, sp, kept', f', -⟩ := popPair_effect other t
    rw [lo, hi, joinBytes_halves] at pair
    exact ⟨u, meaning.trans next, regsKeptBut_nil_of_getPair (regsKeptBut_trans kept kept') pair, f'.trans f, sp⟩
  cases p with
  | bc | de | hl => exact pop_other (by decide) rfl
  | af =>
    obtain ⟨u, next, a, f', sp, kept', -⟩ := popAfWith_effect defaults t
    have high : u.getReg .a = s.getReg .a := (a.trans hi).trans (hiByte_joinBytes _ _)
    have masked : u.f = t.mem.read t.sp &&& 0xF0#8 := f'
    refine ⟨u, next, regsKeptBut_of_cons (regsKeptBut_trans kept kept') high, ?_, sp⟩
    rw [masked, lo, State.getPair, loByte_joinBytes, and_highNibble_of_low_zero (low rfl)]

/-! #### Rotates -/

/-- An instruction that acts as `f` on what `view` sees of the state acts as the power of `f` when repeated. -/
theorem execTimes_iterate {β : Type} {i : Instr} {view : State → β} {f : β → β}
    (once : ∀ s, ∃ t, exec i s = .next t ∧ view t = f (view s)) (n : Nat) (s : State) :
    ∃ t, execTimes i n s = .next t ∧ view t = f^[n] (view s) := by
  induction n generalizing s with
  | zero => exact ⟨s, rfl, rfl⟩
  | succ n ih =>
    obtain ⟨t, next, seen⟩ := once s
    obtain ⟨u, nexts, seens⟩ := ih t
    refine ⟨u, ?_, ?_⟩
    · rw [execTimes, next]
      exact nexts
    · rw [seens, seen, Function.iterate_succ_apply]

/-- `RL A` on A and Carry. -/
def rotateThroughCarry (x : Byte × Bool) : Byte × Bool := (rotLeftCarry x.1 x.2, x.1.getLsbD 7)

/-- The nine bits of Carry and A come round in nine rotates. -/
theorem rotateThroughCarry_iterate_nine : ∀ a c, rotateThroughCarry^[9] (a, c) = (a, c) := by
  decide

/-- The eight bits of A come round in eight rotates. -/
theorem rotLeft_iterate_eight : ∀ a, rotLeft^[8] a = a := by
  decide

theorem rotRight_rotLeft : ∀ a, rotRight (rotLeft a) = a := by
  decide

/-- What the obligations on rotates look at: A and Carry. -/
def aAndCarry (s : State) : Byte × Bool := (s.getReg .a, s.getFlag .c)

theorem exec_rlA_aAndCarry (s : State) :
    ∃ t, exec .rlA s = .next t ∧ aAndCarry t = rotateThroughCarry (aAndCarry s) := by
  obtain ⟨t, next, a, ⟨-, -, -, carry, -⟩, -⟩ := rotateTo_effect .rlA
    (rotLeftCarry (s.getReg .a) (s.getFlag .c)) ((s.getReg .a).getLsbD 7) s
  exact ⟨t, next, Prod.ext a carry⟩

theorem exec_rlcA_a (s : State) : ∃ t, exec .rlcA s = .next t ∧ t.getReg .a = rotLeft (s.getReg .a) := by
  obtain ⟨t, next, a, -⟩ := rotateTo_effect .rlcA (rotLeft (s.getReg .a)) ((s.getReg .a).getLsbD 7) s
  exact ⟨t, next, a⟩

theorem exec_rrcA_a (s : State) : ∃ t, exec .rrcA s = .next t ∧ t.getReg .a = rotRight (s.getReg .a) := by
  obtain ⟨t, next, a, -⟩ := rotateTo_effect .rrcA (rotRight (s.getReg .a)) ((s.getReg .a).getLsbD 0) s
  exact ⟨t, next, a⟩

end Sys2Proof.Proofs
end

/-! ### The obligations on sequences of instructions -/
section

namespace Sys2Proof.Proofs

open Machine Laws

/-- Settles O29: `PUSH` stores the pair at the new SP and changes no register, and `POP` there reads it back. -/
theorem pushThenPopRestores : Obligations.PushThenPopRestores := by
  intro push pop p s pushes pops low
  obtain ⟨t, next, sp, stored, kept, f, -⟩ := pushPair_effect p s
  rw [← sp] at stored
  obtain ⟨u, next', kept', f', sp'⟩ := pop_of_memStoredWord stored kept f low
  refine ⟨t, u, (exec_of_form pushes s).trans next, (exec_of_form pops t).trans next',
    fun r => kept' r List.not_mem_nil, f', ?_⟩
  rw [sp', sp]
  exact BitVec.sub_add_cancel s.sp 2

/-- Settles O30: `RL A` rotates the nine bits of Carry and A, `RLC A` and `RRC A` the eight of A. -/
theorem rotatesComeBack : Obligations.RotatesComeBack := by
  intro s
  refine ⟨?_, ?_, ?_⟩
  · obtain ⟨t, nexts, seen⟩ := execTimes_iterate exec_rlA_aAndCarry 9 s
    obtain ⟨a, carry⟩ := Prod.ext_iff.mp (seen.trans (rotateThroughCarry_iterate_nine _ _))
    exact ⟨t, nexts, a, carry⟩
  · obtain ⟨t, nexts, a⟩ := execTimes_iterate exec_rlcA_a 8 s
    exact ⟨t, nexts, a.trans (rotLeft_iterate_eight _)⟩
  · obtain ⟨t, next, left⟩ := exec_rlcA_a s
    obtain ⟨u, next', right⟩ := exec_rrcA_a t
    exact ⟨t, u, next, next', by rw [right, left, rotRight_rotLeft]⟩

end Sys2Proof.Proofs
end

/-! ### Lemmas on two runs: what a step depends on -/
section

namespace Sys2Proof.Proofs

open Machine Laws

variable {σ : Type}

/-! #### Two states that agree on everything but some bits of F -/

/-- The states agree on the registers, PC, SP, the port's state, the record and the listed bits of F; the
reports may differ. -/
structure AgreeOn (bits : Nat → Prop) (s s' : State σ) : Prop where
  regs : ∀ r, s.getReg r = s'.getReg r
  pc : s.pc = s'.pc
  sp : s.sp = s'.sp
  mem : s.mem = s'.mem
  accesses : s.accesses = s'.accesses
  f : ∀ k, bits k → s.f.getLsbD k = s'.f.getLsbD k

namespace AgreeOn

variable {bits : Nat → Prop} {s s' : State σ}

theorem getFlag (agree : AgreeOn bits s s') {x : Flag} (listed : bits x.bit) : s.getFlag x = s'.getFlag x :=
  agree.f x.bit listed

/-- With both bits that conditions look at listed, the conditions agree. -/
theorem condHolds (agree : AgreeOn bits s s') (zero : bits 7) (carry : bits 4) (x : Cond) :
    s.condHolds x = s'.condHolds x := by
  have z := agree.getFlag (x := .z) zero
  have c := agree.getFlag (x := .c) carry
  cases x <;> simp [State.condHolds, z, c]

theorem getPair (agree : AgreeOn bits s s') {p : Pair} (other : p ≠ .af) : s.getPair p = s'.getPair p :=
  State.getPair_congr_regs p other agree.regs

theorem getR16 (agree : AgreeOn bits s s') (p : R16) : s.getR16 p = s'.getR16 p :=
  State.getR16_congr p agree.regs agree.sp

theorem setReg (agree : AgreeOn bits s s') (r : R8) {v v' : Byte} (value : v = v') :
    AgreeOn bits (s.setReg r v) (s'.setReg r v') where
  regs q := by simp [value, agree.regs q]
  pc := by simp [agree.pc]
  sp := by simp [agree.sp]
  mem := by simp [agree.mem]
  accesses := by simp [agree.accesses]
  f := by simpa using agree.f

theorem setF (agree : AgreeOn bits s s') {v v' : Byte} (value : ∀ k, bits k → v.getLsbD k = v'.getLsbD k) :
    AgreeOn bits (s.setF v) (s'.setF v') where
  regs q := by simp [agree.regs q]
  pc := agree.pc
  sp := agree.sp
  mem := agree.mem
  accesses := agree.accesses
  f := value

theorem setFlag (agree : AgreeOn bits s s') (x : Flag) {v v' : Bool} (value : v = v') :
    AgreeOn bits (s.setFlag x v) (s'.setFlag x v') :=
  agree.setF fun k listed => by
    have bit := State.getLsbD_setFlag s x v k
    rw [agree.f k listed, value, ← State.getLsbD_setFlag] at bit
    exact value ▸ bit

theorem setPc (agree : AgreeOn bits s s') {v v' : Word} (value : v = v') :
    AgreeOn bits (s.setPc v) (s'.setPc v') :=
  { agree with regs := fun q => by simp [agree.regs q], pc := value }

theorem setSp (agree : AgreeOn bits s s') {v v' : Word} (value : v = v') :
    AgreeOn bits (s.setSp v) (s'.setSp v') :=
  { agree with regs := fun q => by simp [agree.regs q], sp := value }

theorem setMem (agree : AgreeOn bits s s') {m m' : σ} (value : m = m') :
    AgreeOn bits (s.setMem m) (s'.setMem m') :=
  { agree with regs := fun q => by simp [agree.regs q], mem := value }

theorem withRecord (agree : AgreeOn bits s s') {xs xs' : List Access} (value : xs = xs') :
    AgreeOn bits (s.withRecord xs) (s'.withRecord xs') :=
  { agree with regs := fun q => by simp [agree.regs q], accesses := value }

theorem setReport (agree : AgreeOn bits s s') (x x' : Report) :
    AgreeOn bits (s.setReport x) (s'.setReport x') :=
  { agree with regs := fun q => by simp [agree.regs q] }

theorem setZNH (agree : AgreeOn bits s s') {w w' : Byte} {h h' : Bool} (n : Bool) (byte : w = w')
    (half : h = h') : AgreeOn bits (s.setZNH w n h) (s'.setZNH w' n h') :=
  ((agree.setFlag .z (congrArg (· == 0) byte)).setFlag .n rfl).setFlag .h half

theorem setNHC (agree : AgreeOn bits s s') {h h' c c' : Bool} (half : h = h') (carry : c = c') :
    AgreeOn bits (s.setNHC h c) (s'.setNHC h' c') :=
  ((agree.setFlag .n rfl).setFlag .h half).setFlag .c carry

theorem setPair (agree : AgreeOn bits s s') (p : Pair) {v v' : Word} (value : v = v') :
    AgreeOn bits (s.setPair p v) (s'.setPair p v') := by
  subst value
  cases p with
  | bc => exact (agree.setReg .b rfl).setReg .c rfl
  | de => exact (agree.setReg .d rfl).setReg .e rfl
  | hl => exact (agree.setReg .h rfl).setReg .l rfl
  | af => exact (agree.setReg .a rfl).setF fun _ _ => rfl

theorem setR16 (agree : AgreeOn bits s s') (p : R16) {v v' : Word} (value : v = v') :
    AgreeOn bits (s.setR16 p v) (s'.setR16 p v') := by
  cases p with
  | sp => exact agree.setSp value
  | bc => exact agree.setPair .bc value
  | de => exact agree.setPair .de value
  | hl => exact agree.setPair .hl value

/-! The port is in one state, so it answers both runs alike. -/

theorem readByte_value (agree : AgreeOn bits s s') (port : Port σ) {a a' : Word} (addr : a = a') :
    (s.readByte port a).1 = (s'.readByte port a').1 := by
  rw [State.readByte_eq, State.readByte_eq, agree.mem, addr]

theorem readByte (agree : AgreeOn bits s s') (port : Port σ) {a a' : Word} (addr : a = a') :
    AgreeOn bits (s.readByte port a).2 (s'.readByte port a').2 := by
  rw [State.readByte_eq, State.readByte_eq, agree.mem, addr]
  exact (agree.setMem rfl).withRecord (congrArg (· ++ _) agree.accesses)

theorem writeByte (agree : AgreeOn bits s s') (port : Port σ) {a a' : Word} {v v' : Byte} (addr : a = a')
    (value : v = v') : AgreeOn bits (s.writeByte port a v) (s'.writeByte port a' v') := by
  rw [State.writeByte_eq, State.writeByte_eq, agree.mem, addr, value]
  exact (agree.setMem rfl).withRecord (congrArg (· ++ _) agree.accesses)

theorem readWord_value (agree : AgreeOn bits s s') (port : Port σ) {a a' : Word} (addr : a = a') :
    (s.readWord port a).1 = (s'.readWord port a').1 := by
  subst addr
  exact congrArg₂ joinBytes ((agree.readByte port rfl).readByte_value port rfl) (agree.readByte_value port rfl)

theorem readWord (agree : AgreeOn bits s s') (port : Port σ) {a a' : Word} (addr : a = a') :
    AgreeOn bits (s.readWord port a).2 (s'.readWord port a').2 := by
  subst addr
  exact (agree.readByte port rfl).readByte port rfl

theorem writeWord (agree : AgreeOn bits s s') (port : Port σ) {a a' v v' : Word} (addr : a = a')
    (value : v = v') : AgreeOn bits (s.writeWord port a v) (s'.writeWord port a' v') := by
  subst addr value
  exact (agree.writeByte port rfl rfl).writeByte port rfl rfl

theorem getLoc_value (agree : AgreeOn bits s s') (port : Port σ) (x : Loc) :
    (s.getLoc port x).1 = (s'.getLoc port x).1 := by
  cases x with
  | reg r => exact agree.regs r
  | hlInd => exact agree.readByte_value port (agree.getPair (by decide))

theorem getLoc (agree : AgreeOn bits s s') (port : Port σ) (x : Loc) :
    AgreeOn bits (s.getLoc port x).2 (s'.getLoc port x).2 := by
  cases x with
  | reg r => exact agree
  | hlInd => exact agree.readByte port (agree.getPair (by decide))

theorem setLoc (agree : AgreeOn bits s s') (port : Port σ) (x : Loc) {v v' : Byte} (value : v = v') :
    AgreeOn bits (s.setLoc port x v) (s'.setLoc port x v') := by
  cases x with
  | reg r => exact agree.setReg r value
  | hlInd => exact agree.writeByte port (agree.getPair (by decide)) value

end AgreeOn

/-! #### Two meanings that agree -/

/-- Both outcomes are next states that agree, with the same report. -/
def BothNext (bits : Nat → Prop) (o o' : Result σ) : Prop :=
  ∃ t t', o = .next t ∧ o' = .next t' ∧ AgreeOn bits t t' ∧ t.report = t'.report

theorem AgreeOn.finish {bits : Nat → Prop} {s s' : State σ} (agree : AgreeOn bits s s') (P : Params σ)
    {k k' : CycKey} (key : k = k') : BothNext bits (finish P k s) (finish P k' s') :=
  ⟨_, _, finish_eq P k s, finish_eq P k' s', agree.setReport _ _, by rw [key]; rfl⟩

section

variable {bits : Nat → Prop} {s s' : State σ} (agree : AgreeOn bits s s') (P : Params σ)

include agree

theorem incLoc_agree (x : Loc) (k : CycKey) : BothNext bits (incLoc P x k s) (incLoc P x k s') := by
  have v := agree.getLoc_value P.port x
  have w := congrArg (· + 1) v
  exact (((agree.getLoc P.port x).setLoc P.port x w).setZNH _ w (congrArg (halfAdd8 · 1) v)).finish P rfl

theorem decLoc_agree (x : Loc) (k : CycKey) : BothNext bits (decLoc P x k s) (decLoc P x k s') := by
  have v := agree.getLoc_value P.port x
  have w := congrArg (· - 1) v
  exact (((agree.getLoc P.port x).setLoc P.port x w).setZNH _ w (congrArg (halfSub8 · 1) v)).finish P rfl

theorem addA_agree (x : Loc) (k : CycKey) : BothNext bits (addA P x k s) (addA P x k s') := by
  have a := agree.regs .a
  have b := agree.getLoc_value P.port x
  have w := congrArg₂ (· + ·) a b
  exact ((((agree.getLoc P.port x).setReg .a w).setZNH _ w (congrArg₂ halfAdd8 a b)).setFlag .c
    (congrArg₂ carry8 a b)).finish P rfl

theorem addHlR16_agree (p : R16) : BothNext bits (addHlR16 P p s) (addHlR16 P p s') := by
  have h : s.getPair .hl = s'.getPair .hl := agree.getPair (by decide)
  have r := agree.getR16 p
  exact ((agree.setPair .hl (congrArg₂ (· + ·) h r)).setNHC (congrArg₂ halfAdd16 h r)
    (congrArg₂ carry16 h r)).finish P rfl

theorem rotateTo_agree (k : CycKey) {w w' : Byte} {out out' : Bool} (byte : w = w') (bit : out = out') :
    BothNext bits (rotateTo P k w out s) (rotateTo P k w' out' s') :=
  (((agree.setReg .a byte).setZNH _ byte rfl).setFlag .c bit).finish P rfl

theorem ldLocLoc_agree (dst src : Loc) (k : CycKey) :
    BothNext bits (ldLocLoc P dst src k s) (ldLocLoc P dst src k s') :=
  ((agree.getLoc P.port src).setLoc P.port dst (agree.getLoc_value P.port src)).finish P rfl

theorem storeAAt_agree {p : Pair} (other : p ≠ .af) : BothNext bits (storeAAt P p s) (storeAAt P p s') :=
  (agree.writeByte P.port (agree.getPair other) (agree.regs .a)).finish P rfl

theorem loadAAt_agree {p : Pair} (other : p ≠ .af) : BothNext bits (loadAAt P p s) (loadAAt P p s') := by
  have addr := agree.getPair other
  exact ((agree.readByte P.port addr).setReg .a (agree.readByte_value P.port addr)).finish P rfl

theorem storeAThenHl_agree (k : CycKey) {next next' : Word} (same : next = next') :
    BothNext bits (storeAThenHl P k next s) (storeAThenHl P k next' s') :=
  ((agree.writeByte P.port (agree.getPair (by decide)) (agree.regs .a)).setPair .hl same).finish P rfl

theorem loadAThenHl_agree (k : CycKey) {next next' : Word} (same : next = next') :
    BothNext bits (loadAThenHl P k next s) (loadAThenHl P k next' s') := by
  have addr : s.getPair .hl = s'.getPair .hl := agree.getPair (by decide)
  exact (((agree.readByte P.port addr).setReg .a (agree.readByte_value P.port addr)).setPair .hl same).finish P rfl

theorem pushPair_agree {p : Pair} (pair : s.getPair p = s'.getPair p) :
    BothNext bits (pushPair P p s) (pushPair P p s') := by
  have sp := congrArg (· - 2) agree.sp
  exact ((agree.setSp sp).writeWord P.port sp pair).finish P rfl

theorem popPair_agree (p : Pair) : BothNext bits (popPair P p s) (popPair P p s') :=
  (((agree.readWord P.port agree.sp).setSp (congrArg (· + 2) agree.sp)).setPair p
    (agree.readWord_value P.port agree.sp)).finish P rfl

theorem popAfWith_agree : BothNext bits (popAfWith P s) (popAfWith P s') := by
  have word := agree.readWord_value P.port agree.sp
  exact ((((agree.readWord P.port agree.sp).setSp (congrArg (· + 2) agree.sp)).setReg .a
    (congrArg hiByte word)).setF fun _ _ => by rw [word]).finish P rfl

/-- With Zero and Carry among the listed bits a form's meaning keeps the agreement; only `PUSH AF` looks at
more of F than those two. -/
theorem meaningOfForm_agree (zero : bits 7) (carry : bits 4) (x : Form)
    (noPushAf : x = .push .af → s.f = s'.f) : BothNext bits (meaningOfForm P x s) (meaningOfForm P x s') := by
  have hl : s.getPair .hl = s'.getPair .hl := agree.getPair (by decide)
  have a : s.getReg .a = s'.getReg .a := agree.regs .a
  have c : s.getFlag .c = s'.getFlag .c := agree.getFlag carry
  cases x with
  | nop => exact agree.finish P rfl
  | ldR16Nn p nn => exact (agree.setR16 p rfl).finish P rfl
  | ldIndBcA | ldIndDeA => exact storeAAt_agree agree P (by decide)
  | ldAIndBc | ldAIndDe => exact loadAAt_agree agree P (by decide)
  | ldHliA => exact storeAThenHl_agree agree P _ (congrArg (· + 1) hl)
  | ldHldA => exact storeAThenHl_agree agree P _ (congrArg (· - 1) hl)
  | ldAHli => exact loadAThenHl_agree agree P _ (congrArg (· + 1) hl)
  | ldAHld => exact loadAThenHl_agree agree P _ (congrArg (· - 1) hl)
  | incR16 p => exact (agree.setR16 p (congrArg (· + 1) (agree.getR16 p))).finish P rfl
  | decR16 p => exact (agree.setR16 p (congrArg (· - 1) (agree.getR16 p))).finish P rfl
  | addHlR16 p => exact addHlR16_agree agree P p
  | incR | incHlInd => exact incLoc_agree agree P _ _
  | decR | decHlInd => exact decLoc_agree agree P _ _
  | ldRN | ldHlN => exact (agree.setLoc P.port _ rfl).finish P rfl
  | rlcA => exact rotateTo_agree agree P _ (congrArg rotLeft a) (congrArg (BitVec.getLsbD · 7) a)
  | rrcA => exact rotateTo_agree agree P _ (congrArg rotRight a) (congrArg (BitVec.getLsbD · 0) a)
  | rlA => exact rotateTo_agree agree P _ (congrArg₂ rotLeftCarry a c) (congrArg (BitVec.getLsbD · 7) a)
  | jr e => exact (agree.setPc (congrArg (· + sext16 e) agree.pc)).finish P rfl
  | jrCc x e =>
    simp only [meaningOfForm, jumpIf_eq_finish, agree.condHolds zero carry x]
    exact (agree.setPc (congrArg (· + _) agree.pc)).finish P rfl
  | scf => exact (agree.setNHC rfl rfl).finish P rfl
  | ccf => exact (agree.setNHC rfl (congrArg (ccfCarry P.ccfMode) c)).finish P rfl
  | ldRR | ldRHlInd | ldHlIndR => exact ldLocLoc_agree agree P _ _ _
  | addAR | addAHlInd => exact addA_agree agree P _ _
  | push p =>
    cases p with
    | af => exact pushPair_agree agree P (State.getPair_congr .af agree.regs (noPushAf rfl))
    | bc | de | hl => exact pushPair_agree agree P (agree.getPair (by decide))
  | pop p =>
    cases p with
    | af => exact popAfWith_agree agree P
    | bc | de | hl => exact popPair_agree agree P _
  | unassigned op =>
    exact ⟨_, _, raiseUnassigned_eq op s, raiseUnassigned_eq op s', agree.setReport _ _, by simp [agree.pc]⟩

end

/-! #### Two steps that agree -/

/-- What is fetched has the opcode byte at PC as its own. -/
theorem fetchInstr_opcode (s : State σ) (port : Port σ) :
    (s.fetchInstr port).1.opcode = (port.read s.mem s.pc).1 := by
  have head {i : Instr} {op : Byte} {operands : List Byte} (encoded : EncodesAs i (op :: operands)) :
      i.opcode = op := (List.cons.inj encoded.2).1
  rw [State.fetchInstr_eq]
  dsimp only
  split
  · next format => exact head (encodesAs_of_op format)
  · next format => exact head (encodesAs_of_opN format _)
  · next format => exact head (encodesAs_of_opE format _)
  · next format => exact head (encodesAs_of_opNn format _ _)

/-- The fetch looks at PC and the port alone. -/
theorem fetchInstr_agree {bits : Nat → Prop} {s s' : State σ} (agree : AgreeOn bits s s') (port : Port σ) :
    (s.fetchInstr port).1 = (s'.fetchInstr port).1 ∧
      AgreeOn bits (s.fetchInstr port).2 (s'.fetchInstr port).2 := by
  rw [State.fetchInstr_eq, State.fetchInstr_eq, agree.pc, agree.mem, agree.accesses]
  dsimp only
  split <;> exact ⟨rfl, ((agree.setPc rfl).setMem rfl).withRecord rfl⟩

theorem stepWith_agree {bits : Nat → Prop} {s s' : State σ}
    (agree : AgreeOn bits (s.withRecord []) (s'.withRecord [])) (zero : bits 7) (carry : bits 4) (P : Params σ)
    (noPushAf : (P.port.read s.mem s.pc).1 = 0xF5#8 → s.f = s'.f) :
    BothNext bits (stepWith P s) (stepWith P s') := by
  obtain ⟨same, fetched⟩ := fetchInstr_agree agree P.port
  rw [stepWith_eq, stepWith_eq, ← same]
  refine meaningOfForm_agree fetched P zero carry _ fun pushAf => ?_
  rw [fetchInstr_f, fetchInstr_f]
  refine noPushAf ((fetchInstr_opcode (s.withRecord []) P.port).symm.trans ?_)
  rw [Instr.eq_of_form pushAf]
  rfl

/-- Agreement on every bit of F is equality but for the report. -/
theorem eq_of_bothNext {o o' : Result σ} (both : BothNext (fun _ => True) o o') : o = o' := by
  obtain ⟨t, t', rfl, rfl, agree, report⟩ := both
  rw [State.ext_regs agree.regs (BitVec.eq_of_getLsbD_eq fun k _ => agree.f k trivial) agree.pc agree.sp
    agree.mem agree.accesses report]

theorem stepWith_congr {s t : State σ} (same : SameCore s t) (P : Params σ) : stepWith P s = stepWith P t := by
  obtain ⟨regs, f, pc, sp, mem⟩ := same
  have agree : AgreeOn (fun _ => True) (s.withRecord []) (t.withRecord []) :=
    ⟨fun r => by simp [regs r], pc, sp, mem, rfl, fun _ _ => congrArg (BitVec.getLsbD · _) f⟩
  exact eq_of_bothNext (stepWith_agree agree trivial trivial P fun _ => f)

/-! #### The same step behind a port that answers from a list (20_memory.md R47) -/

/-- The outcome is a next state with the accesses `xs` added to the record, and the run is that same outcome
behind the scripted port, from a script that begins with the answers to `xs`. -/
def Replays (s : State σ) (o : Result σ) (run : State (List Byte) → Result (List Byte)) : Prop :=
  ∃ xs t, o = .next t ∧ t.accesses = s.accesses ++ xs ∧
    ∀ script, run (s.behind (answers xs ++ script)) = .next (t.behind script)

theorem replays_silent {s t : State σ} {o : Result σ} {run : State (List Byte) → Result (List Byte)}
    (next : o = .next t) (record : t.accesses = s.accesses)
    (replay : ∀ script, run (s.behind script) = .next (t.behind script)) : Replays s o run :=
  ⟨[], t, next, by rw [record, List.append_nil], replay⟩

theorem replays_one {s t : State σ} {o : Result σ} {run : State (List Byte) → Result (List Byte)} (x : Access)
    (next : o = .next t) (record : t.accesses = s.accesses ++ [x])
    (replay : ∀ script, run (s.behind (answers [x] ++ script)) = .next (t.behind script)) : Replays s o run :=
  ⟨[x], t, next, record, replay⟩

theorem replays_two {s t : State σ} {o : Result σ} {run : State (List Byte) → Result (List Byte)} (x y : Access)
    (next : o = .next t) (record : t.accesses = s.accesses ++ [x] ++ [y])
    (replay : ∀ script, run (s.behind (answers [x, y] ++ script)) = .next (t.behind script)) : Replays s o run :=
  ⟨[x, y], t, next, by rw [record, List.append_assoc]; rfl, replay⟩

/-! What each operation does behind another port. -/

@[simp] theorem getFlag_behind {τ : Type} (s : State σ) (m : τ) (x : Flag) :
    (s.behind m).getFlag x = s.getFlag x := rfl

@[simp] theorem getR16_behind {τ : Type} (s : State σ) (m : τ) (p : R16) : (s.behind m).getR16 p = s.getR16 p := by
  cases p <;> rfl

@[simp] theorem condHolds_behind {τ : Type} (s : State σ) (m : τ) (x : Cond) :
    (s.behind m).condHolds x = s.condHolds x := by
  cases x <;> rfl

@[simp] theorem setR16_behind {τ : Type} (s : State σ) (m : τ) (p : R16) (v : Word) :
    (s.behind m).setR16 p v = (s.setR16 p v).behind m := by
  cases p <;> rfl

@[simp] theorem setZNH_behind {τ : Type} (s : State σ) (m : τ) (w : Byte) (n h : Bool) :
    (s.behind m).setZNH w n h = (s.setZNH w n h).behind m := rfl

@[simp] theorem setNHC_behind {τ : Type} (s : State σ) (m : τ) (h c : Bool) :
    (s.behind m).setNHC h c = (s.setNHC h c).behind m := rfl

@[simp] theorem finish_behind {τ : Type} (P : Params σ) (port : Port τ) (k : CycKey) (u : State σ) (m : τ) :
    finish { P with port := port } k (u.behind m) = .next ((u.setReport (.done (P.cyc k))).behind m) := rfl

@[simp] theorem setZNH_accesses (s : State σ) (w : Byte) (n h : Bool) :
    (s.setZNH w n h).accesses = s.accesses := rfl

@[simp] theorem setNHC_accesses (s : State σ) (h c : Bool) : (s.setNHC h c).accesses = s.accesses := rfl

theorem writeWord_behind (s : State σ) (port : Port σ) (a v : Word) (script : List Byte) :
    (s.behind script).writeWord scriptedPort a v = (s.writeWord port a v).behind script := rfl

/-- By the accesses that each form issues: an answer is consumed by a read, and a write asks for none. -/
theorem meaningOfForm_replays (P : Params σ) (x : Form) (s : State σ) :
    Replays s (meaningOfForm P x s) (meaningOfForm { P with port := scriptedPort } x) := by
  cases x with
  | nop | unassigned op => exact replays_silent rfl rfl fun _ => rfl
  | scf => exact replays_silent rfl (by simp) fun _ => by simp [meaningOfForm]
  | ccf => exact replays_silent rfl (by simp) fun _ => by simp [meaningOfForm, ccfWith]
  | ldR16Nn p nn => exact replays_silent rfl (by simp) fun _ => by simp [meaningOfForm, ldR16Nn]
  | incR16 p => exact replays_silent rfl (by simp) fun _ => by simp [meaningOfForm, incR16]
  | decR16 p => exact replays_silent rfl (by simp) fun _ => by simp [meaningOfForm, decR16]
  | addHlR16 p => exact replays_silent rfl (by simp) fun _ => by simp [meaningOfForm, addHlR16]
  | rlcA | rrcA | rlA => exact replays_silent rfl (by simp) fun _ => by simp [meaningOfForm, rotateTo]
  | jr e => exact replays_silent rfl (by simp) fun _ => by simp [meaningOfForm, jumpBy]
  | jrCc x e =>
    exact replays_silent (jumpIf_eq_finish P x e s) (by simp) fun _ => by simp [meaningOfForm, jumpIf_eq_finish]
  | incR r =>
    exact replays_silent (incLoc_reg P r .incR s) (by simp) fun _ => by simp [meaningOfForm, incLoc_reg]
  | decR r =>
    exact replays_silent (decLoc_reg P r .decR s) (by simp) fun _ => by simp [meaningOfForm, decLoc_reg]
  | addAR r =>
    exact replays_silent rfl (by simp [State.getLoc_eq]) fun _ => by simp [meaningOfForm, addA, State.getLoc_eq]
  | ldRN r n =>
    exact replays_silent rfl (by simp [State.setLoc_eq]) fun _ => by simp [meaningOfForm, ldLocN, State.setLoc_eq]
  | ldRR dst src =>
    exact replays_silent (ldLocLoc_reg_reg P dst src .ldRR s) (by simp) fun _ => by
      simp [meaningOfForm, ldLocLoc_reg_reg]
  | ldIndBcA | ldIndDeA =>
    exact replays_one (.write _ _) rfl rfl fun _ => by
      simp [meaningOfForm, storeAAt, State.writeByte_behind _ P.port, answers]
  | ldHliA | ldHldA =>
    exact replays_one (.write _ _) rfl rfl fun _ => by
      simp [meaningOfForm, storeAThenHl, State.writeByte_behind _ P.port, answers]
  | ldHlN n =>
    exact replays_one (.write _ _) rfl rfl fun _ => by
      simp [meaningOfForm, ldLocN, State.setLoc_eq, State.writeByte_behind _ P.port, answers]
  | ldHlIndR src =>
    exact replays_one (.write _ _) (ldLocLoc_hlInd_reg P src .ldHlIndR s) rfl fun _ => by
      simp [meaningOfForm, ldLocLoc_hlInd_reg, State.writeByte_behind _ P.port, answers]
  | ldAIndBc | ldAIndDe =>
    exact replays_one (.read _ _) rfl rfl fun _ => by simp [meaningOfForm, loadAAt, answers]
  | ldAHli | ldAHld =>
    exact replays_one (.read _ _) rfl rfl fun _ => by simp [meaningOfForm, loadAThenHl, answers]
  | addAHlInd =>
    exact replays_one (.read _ _) rfl rfl fun _ => by simp [meaningOfForm, addA, State.getLoc_eq, answers]
  | ldRHlInd r =>
    exact replays_one (.read (s.getPair .hl) (P.port.read s.mem (s.getPair .hl)).1) rfl
      (by simp [State.setLoc_eq, State.getLoc_eq])
      fun _ => by simp [meaningOfForm, ldLocLoc, State.getLoc_eq, State.setLoc_eq, answers]
  | incHlInd =>
    exact replays_two (.read _ _) (.write _ _) rfl rfl fun _ => by
      simp [meaningOfForm, incLoc, State.getLoc_eq, State.setLoc_eq, State.writeByte_behind _ P.port, answers]
  | decHlInd =>
    exact replays_two (.read _ _) (.write _ _) rfl rfl fun _ => by
      simp [meaningOfForm, decLoc, State.getLoc_eq, State.setLoc_eq, State.writeByte_behind _ P.port, answers]
  | push p =>
    exact replays_two (.write _ _) (.write _ _) rfl rfl fun _ => by
      simp [meaningOfForm, pushPair, writeWord_behind _ P.port, answers]
  | pop p => cases p <;> exact replays_two (.read s.sp _) (.read (s.sp + 1) _) rfl rfl fun _ => rfl

/-- The fetch consumes the answers to its reads, one for each byte of the instruction. -/
theorem fetchInstr_replays (s : State σ) (port : Port σ) :
    ∃ xs, (s.fetchInstr port).2.accesses = s.accesses ++ xs ∧
      ∀ script, (s.behind (answers xs ++ script)).fetchInstr scriptedPort =
        ((s.fetchInstr port).1, (s.fetchInstr port).2.behind script) := by
  simp only [State.fetchInstr_eq s port]
  cases format : formatOf (port.read s.mem s.pc).1 with
  | op | opN | opE | opNn =>
    refine ⟨_, rfl, fun script => ?_⟩
    simp [State.fetchInstr_eq, scriptedPort, answers, format]
    rfl

theorem stepWith_replays {P : Params σ} {s t : State σ} (next : stepWith P s = .next t) :
    stepWith { P with port := scriptedPort } (s.behind (answers t.accesses)) = .next (t.behind []) := by
  obtain ⟨xs, fetched, fetch⟩ := fetchInstr_replays (s.withRecord []) P.port
  obtain ⟨ys, u, next', executed, meaning⟩ := meaningOfForm_replays P ((s.withRecord []).fetchInstr P.port).1.form
    ((s.withRecord []).fetchInstr P.port).2
  obtain rfl := Host.Outcome.next.inj (next.symm.trans next')
  have all : answers t.accesses = answers xs ++ (answers ys ++ []) := by
    rw [executed, fetched, List.append_nil]
    exact answers_append xs ys
  calc stepWith { P with port := scriptedPort } (s.behind (answers t.accesses))
    _ = execWith { P with port := scriptedPort } ((s.withRecord []).fetchInstr P.port).1
          (((s.withRecord []).fetchInstr P.port).2.behind (answers ys ++ [])) := by
      have replayed := fetch (answers ys ++ [])
      rw [← all] at replayed
      rw [stepWith_eq]
      exact congrArg (fun fetched => execWith { P with port := scriptedPort } fetched.1 fetched.2) replayed
    _ = .next (t.behind []) := meaning []

end Sys2Proof.Proofs
end

/-! ### The obligations on what a step depends on -/
section

namespace Sys2Proof.Proofs

open Machine Laws

/-- Settles O21: the record begins afresh and the report is overwritten, so that agreement on the rest is
agreement on all that the step looks at. -/
theorem stepDependsOnRegistersAndMemoryOnly : Obligations.StepDependsOnRegistersAndMemoryOnly := by
  refine ⟨fun s t same => ?_, fun σ P s t same => stepWith_congr same P⟩
  rw [step_eq_stepWith, step_eq_stepWith]
  exact stepWith_congr same defaults

/-- Settles O25: agreement on bits 7 and 4 of F is kept by every step but that at `PUSH AF`. -/
theorem subtractAndHalfCarryReachPushAfOnly : Obligations.SubtractAndHalfCarryReachPushAfOnly := by
  intro s s' regs pc sp mem zero carry other
  have agree : AgreeOn (fun k => k = 7 ∨ k = 4) (s.withRecord []) (s'.withRecord []) := by
    refine ⟨fun r => by simp [regs r], pc, sp, mem, rfl, ?_⟩
    rintro k (rfl | rfl)
    · exact zero
    · exact carry
  obtain ⟨t, t', next, next', after, report⟩ :=
    stepWith_agree agree (.inl rfl) (.inr rfl) defaults fun pushAf => absurd pushAf other
  rw [step_eq_stepWith, step_eq_stepWith]
  exact ⟨t, t', next, next', after.regs, after.pc, after.sp, after.mem, after.f 7 (.inl rfl),
    after.f 4 (.inr rfl), after.accesses, report⟩

/-- Settles O27: fetch and meaning consume the answers to the accesses they issue, which are those of the
record. -/
theorem stepIsDeterminedByRegistersAndAnswers : Obligations.StepIsDeterminedByRegistersAndAnswers :=
  fun _ _ _ _ => stepWith_replays

end Sys2Proof.Proofs
end
